-- ==== Sys2Proof/Word.lean ====
section
/-! DEFINITION. The widths of the block's values (spec/00_scope.md R9, R12, R13) and the two small
alphabets every request is made of: its size and its kind. -/

namespace Sys2Proof

/-- An address or a data value (R12: an unsigned 32-bit word unless its width is stated). -/
abbrev Word := BitVec 32

/-- One byte of a line (R13). -/
abbrev Byte := BitVec 8

/-- The 37-bit command word `Q` (R110). -/
abbrev CmdWord := BitVec 37

/-- A set index, 0 to 63 (R9). -/
abbrev SetIdx := BitVec 6

/-- A way index, 0 to 3 (R9). -/
abbrev Way := BitVec 2

/-- A byte offset in a 16-byte line (R9). -/
abbrev Offset := BitVec 4

/-- The 6-bit pseudo-LRU state of a set (R36). -/
abbrev LruBits := BitVec 6

/-- The three access sizes (R13): 1, 2 and 4 bytes. -/
inductive Size where
  | byte
  | word
  | long
  deriving DecidableEq, Repr

/-- The number of bytes `n` of an access size (R13). -/
def Size.bytes : Size → Nat
  | .byte => 1
  | .word => 2
  | .long => 4

/-- Whether a read is a data access or an instruction fetch (R42, R111). -/
inductive Kind where
  | data
  | instruction
  deriving DecidableEq, Repr

end Sys2Proof
end

