-- ==== Sys2Proof/Config.lean ====
section
/-! DEFINITION. What an implementation fixes (the parameters of spec/00_scope.md R11, as plain data that
`State` holds for a run) and the free values: constants without a body, so that nothing about them can be
proved but what holds for every value. The defaults of R11 stand in Sys2Proof/Decode.lean (the region map)
and Sys2Proof/Machine/Defaults.lean. -/

namespace Sys2Proof

/-- What the top three address bits select (R114, R115). `unmapped` is "an implicit default of
pass-through behavior for any unmapped combination". -/
inductive Region where
  | use
  | through
  | purge
  | addressArray
  | dataArray
  | io
  | unmapped
  deriving DecidableEq, Repr

/-- `REGION_MAP` (R11, R115): entry `i` is the region that `A[31:29] = i` selects. -/
abbrev RegionMap := Vector Region 8

/-- `region(a) = REGION_MAP[a[31:29]]` (R15). -/
def regionOf (m : RegionMap) (a : Word) : Region :=
  m[(a.extractLsb' 29 3).toNat]'(a.extractLsb' 29 3).isLt

/-- `AA_WRITE_SOURCE` (R11, R242): the word whose bits 28:10 an address-array write installs. -/
inductive AaWriteSource where
  | data
  | address
  deriving DecidableEq, Repr

/-- The parameters of R11, fixed for a run (spec/70_reset_and_hazards.md R323). -/
structure Params where
  regionMap : RegionMap
  plruAnd : Vector LruBits 4
  plruOr : Vector LruBits 4
  /-- `none` is the sentinel "no victim, treat as pass-through" (R37). -/
  victimTable : Vector (Option Way) 64
  replMaskReset : LruBits
  replBiasDataReset : Way
  replBiasInstrReset : Way
  writeHitUpdatesLru : Bool
  aaWriteSource : AaWriteSource
  hitCost : Nat
  arrayCost : Nat
  coherencyCheck : Bool
  deriving DecidableEq, Repr

/-- What the bus collaborator answers to one call (spec/20_memory.md R72, spec/60_exceptions.md R293). -/
inductive BusAnswer where
  /-- The call succeeds. A read's value is the low `8n` bits of `value`, and a write ignores it.
  `cost` is `none` when the bus reports no cost. -/
  | done (value : Word) (cost : Option Nat)
  /-- The bus reports a fatal condition on the call. -/
  | fatal
  deriving DecidableEq, Repr, Inhabited

/-- FREE VALUE (log 3): what the bus answers to its `index`-th call, a call of size `n` at `addr`, when the
state lists no further answer, whichever processor's block makes the call (log 12). 92_eei_decisions.md D26: the bus is an oracle, and each answer a draw from it. -/
opaque Config.busAnswer : (index : Nat) → (addr : Word) → (n : Size) → BusAnswer

/-- FREE VALUE (log 5): the open parameter `HIT_COST` (R11, 92_eei_decisions.md D19). -/
opaque Config.hitCost : Nat

/-- FREE VALUE (log 5): the open parameter `ARRAY_COST` (R11, 92_eei_decisions.md D19). -/
opaque Config.arrayCost : Nat

end Sys2Proof
end

