-- ==== Sys2Proof/Syntax.lean ====
section
/-! DEFINITION. The commands of the block, one constructor per row of spec/opcode_table.json
(spec/30_encoding.md R120). A read carries its kind `k` and its address `a`, a write its address `a` and its
data operand `d`. The address is the whole 32-bit `A` as the requester gave it, before the masking of R78.
Bits that R117 calls ignored (`K` of a write, bits 31:0 of a control word, `D` of a read) are no operands. -/

namespace Sys2Proof

/-- A command of the block (R120). -/
inductive Instr where
  /-- USE.RD.B (R150). -/
  | useRdB (k : Kind) (a : Word)
  /-- USE.RD.W (R151). -/
  | useRdW (k : Kind) (a : Word)
  /-- USE.RD.L (R152). -/
  | useRdL (k : Kind) (a : Word)
  /-- USE.WR.B (R153). -/
  | useWrB (a : Word) (d : Word)
  /-- USE.WR.W (R154). -/
  | useWrW (a : Word) (d : Word)
  /-- USE.WR.L (R155). -/
  | useWrL (a : Word) (d : Word)
  /-- THR.RD.B (R191). -/
  | thrRdB (k : Kind) (a : Word)
  /-- THR.RD.W (R192). -/
  | thrRdW (k : Kind) (a : Word)
  /-- THR.RD.L (R193). -/
  | thrRdL (k : Kind) (a : Word)
  /-- THR.WR.B (R194). -/
  | thrWrB (a : Word) (d : Word)
  /-- THR.WR.W (R195). -/
  | thrWrW (a : Word) (d : Word)
  /-- THR.WR.L (R196). -/
  | thrWrL (a : Word) (d : Word)
  /-- IO.RD.B (R197). -/
  | ioRdB (k : Kind) (a : Word)
  /-- IO.RD.W (R198). -/
  | ioRdW (k : Kind) (a : Word)
  /-- IO.RD.L (R199). -/
  | ioRdL (k : Kind) (a : Word)
  /-- IO.WR.B (R200). -/
  | ioWrB (a : Word) (d : Word)
  /-- IO.WR.W (R201). -/
  | ioWrW (a : Word) (d : Word)
  /-- IO.WR.L (R202). -/
  | ioWrL (a : Word) (d : Word)
  /-- UNM.RD.B (R203). -/
  | unmRdB (k : Kind) (a : Word)
  /-- UNM.RD.W (R204). -/
  | unmRdW (k : Kind) (a : Word)
  /-- UNM.RD.L (R205). -/
  | unmRdL (k : Kind) (a : Word)
  /-- UNM.WR.B (R206). -/
  | unmWrB (a : Word) (d : Word)
  /-- UNM.WR.W (R207). -/
  | unmWrW (a : Word) (d : Word)
  /-- UNM.WR.L (R208). -/
  | unmWrL (a : Word) (d : Word)
  /-- PRG.WR.L (R231). -/
  | prgWrL (a : Word) (d : Word)
  /-- AA.RD.L (R241). -/
  | aaRdL (k : Kind) (a : Word)
  /-- AA.WR.L (R242). -/
  | aaWrL (a : Word) (d : Word)
  /-- DA.RD.B (R244). -/
  | daRdB (k : Kind) (a : Word)
  /-- DA.RD.W (R245). -/
  | daRdW (k : Kind) (a : Word)
  /-- DA.RD.L (R246). -/
  | daRdL (k : Kind) (a : Word)
  /-- DA.WR.B (R247). -/
  | daWrB (a : Word) (d : Word)
  /-- DA.WR.W (R248). -/
  | daWrW (a : Word) (d : Word)
  /-- DA.WR.L (R249). -/
  | daWrL (a : Word) (d : Word)
  /-- RESET (R270). -/
  | reset
  /-- ENABLE (R271). -/
  | enable
  /-- DISABLE (R272). -/
  | disable
  /-- SETREPL (R273). -/
  | setrepl (d : Word)
  deriving DecidableEq, Repr

end Sys2Proof
end

