-- ==== Sys2Proof/WellFormed.lean ====
section
/-! DEFINITION. When a command is one the encoding of spec/30_encoding.md has: the address of a memory
request lies in the region its mnemonic names (R114, R116). A control command is always well-formed. -/

namespace Sys2Proof

/-- The address of a memory request and the region its mnemonic names (R116). -/
def Instr.target : Instr → Option (Word × Region)
  | .useRdB _ a => some (a, .use)
  | .useRdW _ a => some (a, .use)
  | .useRdL _ a => some (a, .use)
  | .useWrB a _ => some (a, .use)
  | .useWrW a _ => some (a, .use)
  | .useWrL a _ => some (a, .use)
  | .thrRdB _ a => some (a, .through)
  | .thrRdW _ a => some (a, .through)
  | .thrRdL _ a => some (a, .through)
  | .thrWrB a _ => some (a, .through)
  | .thrWrW a _ => some (a, .through)
  | .thrWrL a _ => some (a, .through)
  | .ioRdB _ a => some (a, .io)
  | .ioRdW _ a => some (a, .io)
  | .ioRdL _ a => some (a, .io)
  | .ioWrB a _ => some (a, .io)
  | .ioWrW a _ => some (a, .io)
  | .ioWrL a _ => some (a, .io)
  | .unmRdB _ a => some (a, .unmapped)
  | .unmRdW _ a => some (a, .unmapped)
  | .unmRdL _ a => some (a, .unmapped)
  | .unmWrB a _ => some (a, .unmapped)
  | .unmWrW a _ => some (a, .unmapped)
  | .unmWrL a _ => some (a, .unmapped)
  | .prgWrL a _ => some (a, .purge)
  | .aaRdL _ a => some (a, .addressArray)
  | .aaWrL a _ => some (a, .addressArray)
  | .daRdB _ a => some (a, .dataArray)
  | .daRdW _ a => some (a, .dataArray)
  | .daRdL _ a => some (a, .dataArray)
  | .daWrB a _ => some (a, .dataArray)
  | .daWrW a _ => some (a, .dataArray)
  | .daWrL a _ => some (a, .dataArray)
  | .reset => none
  | .enable => none
  | .disable => none
  | .setrepl _ => none

/-- The command's address, if it has one, selects the region of its mnemonic under the map `m` (R116). -/
abbrev WellFormed (m : RegionMap) (i : Instr) : Prop :=
  ∀ t ∈ i.target, regionOf m t.1 = t.2

end Sys2Proof
end

