-- ==== Sys2Proof/Decode.lean ====
section
/-! DEFINITION. Decoding a command word (spec/30_encoding.md R110 to R117), the opcode map of R120, and the
encoder. Decoding is total: it answers a command or the name of what is invalid. -/

namespace Sys2Proof

/-- Why a command word is invalid (R117, R291). -/
inductive InvalidReason where
  /-- `C = 1` with `CMD` in 0100 to 1111. -/
  | reservedCommand
  /-- `C = 0` with `SZ = 11`. -/
  | reservedSize
  /-- A Purge-region request other than a long write. -/
  | purgeWidth
  /-- An AddressArray-region request of byte or word size. -/
  | addressArrayWidth
  deriving DecidableEq, Repr

/-- The default `REGION_MAP` (R115). -/
def defaultRegionMap : RegionMap :=
  #v[.use, .through, .purge, .addressArray, .unmapped, .unmapped, .dataArray, .io]

/-- The field `SZ` (R111); 11 is reserved. -/
def sizeOfCode (sz : BitVec 2) : Option Size :=
  if sz = 0b00#2 then some .byte
  else if sz = 0b01#2 then some .word
  else if sz = 0b10#2 then some .long
  else none

/-- The field `K` (R111). -/
def kindOfBit (k : Bool) : Kind :=
  if k then .instruction else .data

/-- The field `CMD` (R112). -/
def decodeControl (cmd : BitVec 4) (d : Word) : Except InvalidReason Instr :=
  if cmd = 0b0000#4 then .ok .reset
  else if cmd = 0b0001#4 then .ok .enable
  else if cmd = 0b0010#4 then .ok .disable
  else if cmd = 0b0011#4 then .ok (.setrepl d)
  else .error .reservedCommand

/-- The case over the region in R116; `write` is the field `W`. -/
def decodeRequest (r : Region) (write : Bool) (n : Size) (k : Kind) (a d : Word) :
    Except InvalidReason Instr :=
  match r, write, n with
  | .use, false, .byte => .ok (.useRdB k a)
  | .use, false, .word => .ok (.useRdW k a)
  | .use, false, .long => .ok (.useRdL k a)
  | .use, true, .byte => .ok (.useWrB a d)
  | .use, true, .word => .ok (.useWrW a d)
  | .use, true, .long => .ok (.useWrL a d)
  | .through, false, .byte => .ok (.thrRdB k a)
  | .through, false, .word => .ok (.thrRdW k a)
  | .through, false, .long => .ok (.thrRdL k a)
  | .through, true, .byte => .ok (.thrWrB a d)
  | .through, true, .word => .ok (.thrWrW a d)
  | .through, true, .long => .ok (.thrWrL a d)
  | .io, false, .byte => .ok (.ioRdB k a)
  | .io, false, .word => .ok (.ioRdW k a)
  | .io, false, .long => .ok (.ioRdL k a)
  | .io, true, .byte => .ok (.ioWrB a d)
  | .io, true, .word => .ok (.ioWrW a d)
  | .io, true, .long => .ok (.ioWrL a d)
  | .unmapped, false, .byte => .ok (.unmRdB k a)
  | .unmapped, false, .word => .ok (.unmRdW k a)
  | .unmapped, false, .long => .ok (.unmRdL k a)
  | .unmapped, true, .byte => .ok (.unmWrB a d)
  | .unmapped, true, .word => .ok (.unmWrW a d)
  | .unmapped, true, .long => .ok (.unmWrL a d)
  | .purge, true, .long => .ok (.prgWrL a d)
  | .purge, _, _ => .error .purgeWidth
  | .addressArray, false, .long => .ok (.aaRdL k a)
  | .addressArray, true, .long => .ok (.aaWrL a d)
  | .addressArray, _, _ => .error .addressArrayWidth
  | .dataArray, false, .byte => .ok (.daRdB k a)
  | .dataArray, false, .word => .ok (.daRdW k a)
  | .dataArray, false, .long => .ok (.daRdL k a)
  | .dataArray, true, .byte => .ok (.daWrB a d)
  | .dataArray, true, .word => .ok (.daWrW a d)
  | .dataArray, true, .long => .ok (.daWrL a d)

/-- `decode(Q)` (R116) under the region map `m`, with the data operand `d` placed into the commands that
have one (R110). -/
def decode (m : RegionMap) (q : CmdWord) (d : Word) : Except InvalidReason Instr :=
  if q.getLsbD 36 then
    decodeControl (q.extractLsb' 32 4) d
  else
    match sizeOfCode (q.extractLsb' 33 2) with
    | none => .error .reservedSize
    | some n =>
      decodeRequest (regionOf m (q.extractLsb' 0 32)) (q.getLsbD 35) n (kindOfBit (q.getLsbD 32))
        (q.extractLsb' 0 32) d

/-- Format REQ (R111): `C = 0`, `W`, `SZ`, `K`, `A`, most significant first. -/
def reqWord (write : Bool) (sz : BitVec 2) (k : BitVec 1) (a : Word) : CmdWord :=
  0#1 ++ BitVec.ofBool write ++ sz ++ k ++ a

/-- Format CTRL (R112): `C = 1`, `CMD`, and the ignored bits 31:0 as zeros. -/
def ctrlWord (cmd : BitVec 4) : CmdWord :=
  1#1 ++ cmd ++ 0#32

/-- The field `K` of a read (R111). -/
def kindBit : Kind → BitVec 1
  | .data => 0#1
  | .instruction => 1#1

/-- The command word and data operand of a command (R111, R112). Ignored bits and an unused `D` are zero. -/
def encode : Instr → CmdWord × Word
  | .useRdB k a => (reqWord false 0b00#2 (kindBit k) a, 0)
  | .useRdW k a => (reqWord false 0b01#2 (kindBit k) a, 0)
  | .useRdL k a => (reqWord false 0b10#2 (kindBit k) a, 0)
  | .useWrB a d => (reqWord true 0b00#2 0#1 a, d)
  | .useWrW a d => (reqWord true 0b01#2 0#1 a, d)
  | .useWrL a d => (reqWord true 0b10#2 0#1 a, d)
  | .thrRdB k a => (reqWord false 0b00#2 (kindBit k) a, 0)
  | .thrRdW k a => (reqWord false 0b01#2 (kindBit k) a, 0)
  | .thrRdL k a => (reqWord false 0b10#2 (kindBit k) a, 0)
  | .thrWrB a d => (reqWord true 0b00#2 0#1 a, d)
  | .thrWrW a d => (reqWord true 0b01#2 0#1 a, d)
  | .thrWrL a d => (reqWord true 0b10#2 0#1 a, d)
  | .ioRdB k a => (reqWord false 0b00#2 (kindBit k) a, 0)
  | .ioRdW k a => (reqWord false 0b01#2 (kindBit k) a, 0)
  | .ioRdL k a => (reqWord false 0b10#2 (kindBit k) a, 0)
  | .ioWrB a d => (reqWord true 0b00#2 0#1 a, d)
  | .ioWrW a d => (reqWord true 0b01#2 0#1 a, d)
  | .ioWrL a d => (reqWord true 0b10#2 0#1 a, d)
  | .unmRdB k a => (reqWord false 0b00#2 (kindBit k) a, 0)
  | .unmRdW k a => (reqWord false 0b01#2 (kindBit k) a, 0)
  | .unmRdL k a => (reqWord false 0b10#2 (kindBit k) a, 0)
  | .unmWrB a d => (reqWord true 0b00#2 0#1 a, d)
  | .unmWrW a d => (reqWord true 0b01#2 0#1 a, d)
  | .unmWrL a d => (reqWord true 0b10#2 0#1 a, d)
  | .prgWrL a d => (reqWord true 0b10#2 0#1 a, d)
  | .aaRdL k a => (reqWord false 0b10#2 (kindBit k) a, 0)
  | .aaWrL a d => (reqWord true 0b10#2 0#1 a, d)
  | .daRdB k a => (reqWord false 0b00#2 (kindBit k) a, 0)
  | .daRdW k a => (reqWord false 0b01#2 (kindBit k) a, 0)
  | .daRdL k a => (reqWord false 0b10#2 (kindBit k) a, 0)
  | .daWrB a d => (reqWord true 0b00#2 0#1 a, d)
  | .daWrW a d => (reqWord true 0b01#2 0#1 a, d)
  | .daWrL a d => (reqWord true 0b10#2 0#1 a, d)
  | .reset => (ctrlWord 0b0000#4, 0)
  | .enable => (ctrlWord 0b0001#4, 0)
  | .disable => (ctrlWord 0b0010#4, 0)
  | .setrepl d => (ctrlWord 0b0011#4, d)

/-- One row of the opcode map: a word `Q` is the row's command when `Q & mask = match` (R120). -/
structure OpcodeRow where
  mnemonic : String
  bits : CmdWord
  mask : CmdWord
  deriving DecidableEq, Repr

/-- `Q & mask = match` (R120). -/
abbrev OpcodeRow.Matches (r : OpcodeRow) (q : CmdWord) : Prop :=
  q &&& r.mask = r.bits

/-- The row of R120 of each command. -/
def Instr.row : Instr → OpcodeRow
  | .useRdB _ _ => ⟨"USE.RD.B", 0x0000000000#37, 0x1EE0000000#37⟩
  | .useRdW _ _ => ⟨"USE.RD.W", 0x0200000000#37, 0x1EE0000000#37⟩
  | .useRdL _ _ => ⟨"USE.RD.L", 0x0400000000#37, 0x1EE0000000#37⟩
  | .useWrB _ _ => ⟨"USE.WR.B", 0x0800000000#37, 0x1EE0000000#37⟩
  | .useWrW _ _ => ⟨"USE.WR.W", 0x0A00000000#37, 0x1EE0000000#37⟩
  | .useWrL _ _ => ⟨"USE.WR.L", 0x0C00000000#37, 0x1EE0000000#37⟩
  | .thrRdB _ _ => ⟨"THR.RD.B", 0x0020000000#37, 0x1EE0000000#37⟩
  | .thrRdW _ _ => ⟨"THR.RD.W", 0x0220000000#37, 0x1EE0000000#37⟩
  | .thrRdL _ _ => ⟨"THR.RD.L", 0x0420000000#37, 0x1EE0000000#37⟩
  | .thrWrB _ _ => ⟨"THR.WR.B", 0x0820000000#37, 0x1EE0000000#37⟩
  | .thrWrW _ _ => ⟨"THR.WR.W", 0x0A20000000#37, 0x1EE0000000#37⟩
  | .thrWrL _ _ => ⟨"THR.WR.L", 0x0C20000000#37, 0x1EE0000000#37⟩
  | .ioRdB _ _ => ⟨"IO.RD.B", 0x00E0000000#37, 0x1EE0000000#37⟩
  | .ioRdW _ _ => ⟨"IO.RD.W", 0x02E0000000#37, 0x1EE0000000#37⟩
  | .ioRdL _ _ => ⟨"IO.RD.L", 0x04E0000000#37, 0x1EE0000000#37⟩
  | .ioWrB _ _ => ⟨"IO.WR.B", 0x08E0000000#37, 0x1EE0000000#37⟩
  | .ioWrW _ _ => ⟨"IO.WR.W", 0x0AE0000000#37, 0x1EE0000000#37⟩
  | .ioWrL _ _ => ⟨"IO.WR.L", 0x0CE0000000#37, 0x1EE0000000#37⟩
  | .unmRdB _ _ => ⟨"UNM.RD.B", 0x0080000000#37, 0x1EC0000000#37⟩
  | .unmRdW _ _ => ⟨"UNM.RD.W", 0x0280000000#37, 0x1EC0000000#37⟩
  | .unmRdL _ _ => ⟨"UNM.RD.L", 0x0480000000#37, 0x1EC0000000#37⟩
  | .unmWrB _ _ => ⟨"UNM.WR.B", 0x0880000000#37, 0x1EC0000000#37⟩
  | .unmWrW _ _ => ⟨"UNM.WR.W", 0x0A80000000#37, 0x1EC0000000#37⟩
  | .unmWrL _ _ => ⟨"UNM.WR.L", 0x0C80000000#37, 0x1EC0000000#37⟩
  | .prgWrL _ _ => ⟨"PRG.WR.L", 0x0C40000000#37, 0x1EE0000000#37⟩
  | .aaRdL _ _ => ⟨"AA.RD.L", 0x0460000000#37, 0x1EE0000000#37⟩
  | .aaWrL _ _ => ⟨"AA.WR.L", 0x0C60000000#37, 0x1EE0000000#37⟩
  | .daRdB _ _ => ⟨"DA.RD.B", 0x00C0000000#37, 0x1EE0000000#37⟩
  | .daRdW _ _ => ⟨"DA.RD.W", 0x02C0000000#37, 0x1EE0000000#37⟩
  | .daRdL _ _ => ⟨"DA.RD.L", 0x04C0000000#37, 0x1EE0000000#37⟩
  | .daWrB _ _ => ⟨"DA.WR.B", 0x08C0000000#37, 0x1EE0000000#37⟩
  | .daWrW _ _ => ⟨"DA.WR.W", 0x0AC0000000#37, 0x1EE0000000#37⟩
  | .daWrL _ _ => ⟨"DA.WR.L", 0x0CC0000000#37, 0x1EE0000000#37⟩
  | .reset => ⟨"RESET", 0x1000000000#37, 0x1F00000000#37⟩
  | .enable => ⟨"ENABLE", 0x1100000000#37, 0x1F00000000#37⟩
  | .disable => ⟨"DISABLE", 0x1200000000#37, 0x1F00000000#37⟩
  | .setrepl _ => ⟨"SETREPL", 0x1300000000#37, 0x1F00000000#37⟩

/-- Rows of R120. -/
def opcodeRowsUse : List OpcodeRow :=
  [ ⟨"USE.RD.B", 0x0000000000#37, 0x1EE0000000#37⟩,
    ⟨"USE.RD.W", 0x0200000000#37, 0x1EE0000000#37⟩,
    ⟨"USE.RD.L", 0x0400000000#37, 0x1EE0000000#37⟩,
    ⟨"USE.WR.B", 0x0800000000#37, 0x1EE0000000#37⟩,
    ⟨"USE.WR.W", 0x0A00000000#37, 0x1EE0000000#37⟩,
    ⟨"USE.WR.L", 0x0C00000000#37, 0x1EE0000000#37⟩ ]

/-- Rows of R120. -/
def opcodeRowsThrough : List OpcodeRow :=
  [ ⟨"THR.RD.B", 0x0020000000#37, 0x1EE0000000#37⟩,
    ⟨"THR.RD.W", 0x0220000000#37, 0x1EE0000000#37⟩,
    ⟨"THR.RD.L", 0x0420000000#37, 0x1EE0000000#37⟩,
    ⟨"THR.WR.B", 0x0820000000#37, 0x1EE0000000#37⟩,
    ⟨"THR.WR.W", 0x0A20000000#37, 0x1EE0000000#37⟩,
    ⟨"THR.WR.L", 0x0C20000000#37, 0x1EE0000000#37⟩ ]

/-- Rows of R120. -/
def opcodeRowsIo : List OpcodeRow :=
  [ ⟨"IO.RD.B", 0x00E0000000#37, 0x1EE0000000#37⟩,
    ⟨"IO.RD.W", 0x02E0000000#37, 0x1EE0000000#37⟩,
    ⟨"IO.RD.L", 0x04E0000000#37, 0x1EE0000000#37⟩,
    ⟨"IO.WR.B", 0x08E0000000#37, 0x1EE0000000#37⟩,
    ⟨"IO.WR.W", 0x0AE0000000#37, 0x1EE0000000#37⟩,
    ⟨"IO.WR.L", 0x0CE0000000#37, 0x1EE0000000#37⟩ ]

/-- Rows of R120. -/
def opcodeRowsUnmapped : List OpcodeRow :=
  [ ⟨"UNM.RD.B", 0x0080000000#37, 0x1EC0000000#37⟩,
    ⟨"UNM.RD.W", 0x0280000000#37, 0x1EC0000000#37⟩,
    ⟨"UNM.RD.L", 0x0480000000#37, 0x1EC0000000#37⟩,
    ⟨"UNM.WR.B", 0x0880000000#37, 0x1EC0000000#37⟩,
    ⟨"UNM.WR.W", 0x0A80000000#37, 0x1EC0000000#37⟩,
    ⟨"UNM.WR.L", 0x0C80000000#37, 0x1EC0000000#37⟩ ]

/-- Rows of R120. -/
def opcodeRowsArrays : List OpcodeRow :=
  [ ⟨"PRG.WR.L", 0x0C40000000#37, 0x1EE0000000#37⟩,
    ⟨"AA.RD.L", 0x0460000000#37, 0x1EE0000000#37⟩,
    ⟨"AA.WR.L", 0x0C60000000#37, 0x1EE0000000#37⟩,
    ⟨"DA.RD.B", 0x00C0000000#37, 0x1EE0000000#37⟩,
    ⟨"DA.RD.W", 0x02C0000000#37, 0x1EE0000000#37⟩,
    ⟨"DA.RD.L", 0x04C0000000#37, 0x1EE0000000#37⟩,
    ⟨"DA.WR.B", 0x08C0000000#37, 0x1EE0000000#37⟩,
    ⟨"DA.WR.W", 0x0AC0000000#37, 0x1EE0000000#37⟩,
    ⟨"DA.WR.L", 0x0CC0000000#37, 0x1EE0000000#37⟩ ]

/-- Rows of R120. -/
def opcodeRowsControl : List OpcodeRow :=
  [ ⟨"RESET", 0x1000000000#37, 0x1F00000000#37⟩,
    ⟨"ENABLE", 0x1100000000#37, 0x1F00000000#37⟩,
    ⟨"DISABLE", 0x1200000000#37, 0x1F00000000#37⟩,
    ⟨"SETREPL", 0x1300000000#37, 0x1F00000000#37⟩ ]

/-- The opcode map of R120, in the table's order. -/
def opcodeRows : List OpcodeRow :=
  opcodeRowsUse ++ opcodeRowsThrough ++ opcodeRowsIo ++ opcodeRowsUnmapped ++ opcodeRowsArrays ++
    opcodeRowsControl

/-- The command in a frame of `nbits` bits (log 11): `Q` in bits 36:0, bits 39:37 zero, `D` in bits 71:40,
every bit from `nbits` up zero. It answers `none` where the decoder refuses. -/
def decodeTableWord (nbits w : Nat) : Option Instr :=
  let f := w % 2 ^ nbits
  if f / 2 ^ 37 % 8 = 0 then
    match decode defaultRegionMap (BitVec.ofNat 37 f) (BitVec.ofNat 32 (f / 2 ^ 40)) with
    | .ok i => some i
    | .error _ => none
  else none

end Sys2Proof
end

