-- ==== Sys2Proof/Machine/Defaults.lean ====
section
/-! DEFINITION. The defaults that spec/00_scope.md R11 gives the parameters. They are the spec's own choices
(92_eei_decisions.md D2, D3, D4, D6, D10, D23), taken there from general knowledge of the SH7604. -/

namespace Sys2Proof.Machine

/-- The default `PLRU_AND` (spec/10_state.md R38). -/
def defaultPlruAnd : Vector LruBits 4 := #v[0x07#6, 0x19#6, 0x2A#6, 0x34#6]

/-- The default `PLRU_OR` (R38). -/
def defaultPlruOr : Vector LruBits 4 := #v[0x00#6, 0x20#6, 0x14#6, 0x0B#6]

/-- Entries 0x00 to 0x1F of the default `VICTIM_TABLE` (spec/10_state.md R37), eight to a line. -/
def defaultVictimLow : Vector (Option Way) 32 :=
  (#v[some 3, some 2, none, some 2, some 3, none, some 1, some 1] : Vector (Option Way) 8) ++
  (#v[none, some 2, none, some 2, none, none, some 1, some 1] : Vector (Option Way) 8) ++
  (#v[some 3, none, none, none, some 3, none, some 1, some 1] : Vector (Option Way) 8) ++
  (#v[none, none, none, none, none, none, some 1, some 1] : Vector (Option Way) 8)

/-- Entries 0x20 to 0x3F of the default `VICTIM_TABLE` (R37), eight to a line. -/
def defaultVictimHigh : Vector (Option Way) 32 :=
  (#v[some 3, some 2, none, some 2, some 3, none, none, none] : Vector (Option Way) 8) ++
  (#v[none, some 2, none, some 2, none, none, none, none] : Vector (Option Way) 8) ++
  (#v[some 3, none, none, none, some 3, none, none, none] : Vector (Option Way) 8) ++
  (#v[some 0, some 0, some 0, some 0, some 0, some 0, some 0, some 0] : Vector (Option Way) 8)

/-- The default `VICTIM_TABLE` (R37). -/
def defaultVictimTable : Vector (Option Way) 64 := defaultVictimLow ++ defaultVictimHigh

/-- The parameters of R11 at their defaults; the two costs, which R11 leaves OPEN, at their free values. -/
def defaultParams : Params where
  regionMap := defaultRegionMap
  plruAnd := defaultPlruAnd
  plruOr := defaultPlruOr
  victimTable := defaultVictimTable
  replMaskReset := 0x3F#6
  replBiasDataReset := 0#2
  replBiasInstrReset := 0#2
  writeHitUpdatesLru := true
  aaWriteSource := .data
  hitCost := Config.hitCost
  arrayCost := Config.arrayCost
  coherencyCheck := false

end Sys2Proof.Machine
end

