-- ==== Sys2Proof/Machine/State.lean ====
section
/-! DEFINITION. The state of the block: every piece of state, every input and every parameter that
spec/10_state.md and spec/00_scope.md R11 give it, with what it has put out so far; the reasons a run can
stop; and the state after reset (R48). -/

namespace Sys2Proof.Machine

/-- The data storage `Line` (R35) as cells, keyed by the data-array address `way ++ set ++ offset` (R243),
strictly rising, with no cell equal to 0x00, the reset contents (R48), which an unlisted byte reads as. -/
abbrev Memory := List Host.Cell

/-- The canonical form from key `lo` on: strictly rising keys below 4096, no byte 0x00. -/
def Memory.wfFrom (lo : Nat) : Memory → Bool
  | [] => true
  | (k, b) :: rest => decide (lo ≤ k) && decide (k < 4096) && decide (b ≠ 0) && Memory.wfFrom (k + 1) rest

/-- The canonical form of the data storage. -/
def Memory.wf (m : Memory) : Bool := Memory.wfFrom 0 m

/-- What stops the machine (spec/60_exceptions.md R291 to R293). Raised into `State.faulted` by the request
concerned; every step of a faulted state answers it. -/
inductive Fault where
  /-- `Fault(InvalidRequest(reason, Q, D))` (R291): raised by `step` when the command word does not decode.
  Safe: R292 gives the machine no further step either. -/
  | invalidRequest (reason : InvalidReason) (q : CmdWord) (d : Word)
  /-- `Fault(BusFault(addr, n))` (R293): raised by a request whose bus call the bus answers as fatal.
  Safe: R293 makes it terminal too. -/
  | busFault (addr : Word) (n : Size)
  deriving DecidableEq, Repr

/-- Why an instruction has no meaning. -/
inductive Refusal where
  /-- Raised by `exec` for a command that has no meaning yet; no command of this model is. Safe. -/
  | notModelled (mnemonic : String)
  deriving DecidableEq, Repr

/-- One command as the requester presents it (R110), with the two inputs the block samples at it (R40, R41). -/
structure Request where
  q : CmdWord
  d : Word
  cfgCacheEnable : Bool
  aaWay : Way
  deriving DecidableEq, Repr

/-- A diagnostic event (R298). -/
inductive Diag where
  /-- The address before masking, and the size (R78). -/
  | misaligned (addr : Word) (n : Size)
  /-- The coherency check's address, size, cached value and bus value (R280). -/
  | coherencyMismatch (addr : Word) (n : Size) (cached bus : Word)
  deriving DecidableEq, Repr

/-- Something the block puts out (R51, R298). -/
inductive Event where
  /-- A bus read and the bus's answer (R72). -/
  | busRead (addr : Word) (n : Size) (answer : BusAnswer)
  /-- A bus write of the low `8n` bits, zero-extended, and the bus's answer (R72). -/
  | busWrite (addr : Word) (n : Size) (value : Word) (answer : BusAnswer)
  /-- A diagnostic event (R298). -/
  | diag (event : Diag)
  /-- The response to the requester: a read's value, zero-extended, and the cost (R14, R51). -/
  | response (value : Option Word) (cost : Nat)
  deriving DecidableEq, Repr

/-- The state. INVENTORY.md lists each field with the rule that names it and its reset value. -/
structure State where
  /-- `enabled` (R32). -/
  enabled : Bool
  /-- `Tag[s][w]` (R33). -/
  tags : Vector (Vector Word 4) 64
  /-- `Line[s][w][o]` (R35). -/
  lines : Memory
  /-- `Lru[s]` (R36). -/
  lru : Vector LruBits 64
  /-- `repl_mask` (R39). -/
  replMask : LruBits
  /-- `repl_bias[0]`, data access (R39). -/
  replBiasData : Way
  /-- `repl_bias[1]`, instruction access (R39). -/
  replBiasInstr : Way
  /-- `faulted` (R43): `none` is 0, `some f` is 1, raised with `f`. -/
  faulted : Option Fault
  /-- `CFG_CACHE_ENABLE` as sampled with the command in execution (R40; log 2). -/
  cfgCacheEnable : Bool
  /-- `AA_WAY` as sampled with the command in execution (R41; log 2). -/
  aaWay : Way
  /-- The parameters (R11; log 4). -/
  params : Params
  /-- The commands the requester has still to present, the next one first (R110; log 1). -/
  requests : List Request
  /-- The bus's answers to the next calls, the next one first (R72; log 3). -/
  busAnswers : List BusAnswer
  /-- The model's own: how many bus calls have been made, the index of the free bus answer (log 3). -/
  busCalls : Nat
  /-- What the block has put out so far, oldest first (R51, R298; log 8). -/
  trace : List Event
  deriving DecidableEq, Repr

/-- The state right after reset (R48), with no command presented, nothing put out and no bus answer listed
(log 1, 2, 3, 8, 10). -/
def State.reset : State where
  enabled := false
  tags := Vector.replicate 64 (Vector.replicate 4 0)
  lines := []
  lru := Vector.replicate 64 0
  replMask := defaultParams.replMaskReset
  replBiasData := defaultParams.replBiasDataReset
  replBiasInstr := defaultParams.replBiasInstrReset
  faulted := none
  cfgCacheEnable := false
  aaWay := 0
  params := defaultParams
  requests := []
  busAnswers := []
  busCalls := 0
  trace := []

end Sys2Proof.Machine
end

