-- ==== Sys2Proof/Machine/Operands.lean ====
section
/-! DEFINITION. The operand forms: alignment (spec/20_memory.md R78), the address fields
(spec/00_scope.md R10, R15; spec/30_encoding.md R118) and the data operand (R119). -/

namespace Sys2Proof.Machine

/-- `align(a, n)` (R15, R78). -/
def align : Size → Word → Word
  | .byte, a => a
  | .word, a => a &&& 0xFFFFFFFE#32
  | .long, a => a &&& 0xFFFFFFFC#32

/-- `form_tag(a) = (a & 0x1FFFFC00) | 0x02` (R15). -/
def formTag (a : Word) : Word := (a &&& 0x1FFFFC00#32) ||| 0x02#32

/-- `set_of(a) = (a & 0x000003F0) >> 4` (R15), the six bits 9:4. -/
def setOfAddr (a : Word) : SetIdx := a.extractLsb' 4 6

/-- `off_of(a) = a & 0x0000000F` (R15). -/
def offOf (a : Word) : Offset := a.extractLsb' 0 4

/-- `line_base(a) = a & 0xFFFFFFF0` (R15). -/
def lineBase (a : Word) : Word := a &&& 0xFFFFFFF0#32

/-- The way of a data-array address, `a[11:10]` (R118, R243). -/
def dataArrayWay (a : Word) : Way := a.extractLsb' 10 2

/-- The low `8n` bits of a data value, zero-extended to 32 bits (R119). -/
def lowBits : Size → Word → Word
  | .byte, v => v &&& 0x000000FF#32
  | .word, v => v &&& 0x0000FFFF#32
  | .long, v => v

/-- The tag word an address-array write stores, from the aligned address and the data operand (R242). -/
def writtenTag (src : AaWriteSource) (a d : Word) : Word :=
  match src with
  | .data => (d &&& 0x1FFFFC00#32) ||| (d &&& 0x00000002#32)
  | .address => (a &&& 0x1FFFFC00#32) ||| (d &&& 0x00000002#32)

/-- Bits 9:4 of an address-array data word, the LRU state it carries (R242). -/
def writtenLru (d : Word) : LruBits := d.extractLsb' 4 6

/-- The composite `tag | (lru_state << 4)` of an address-array read (R241). -/
def composite (t : Word) (l : LruBits) : Word := t ||| (l.setWidth 32 <<< 4)

end Sys2Proof.Machine
end

