-- ==== Sys2Proof/Machine/Ops.lean ====
section
/-! DEFINITION. The named operations over the state: the arrays, the outputs, the bus, raising a fault. Every
command reads and writes the state through these. -/

namespace Sys2Proof.Machine

/-! The data storage. -/

/-- The byte at key `k`; an unlisted byte reads 0x00 (R48). -/
def Memory.read : Memory → Nat → Byte
  | [], _ => 0
  | (k', b) :: rest, k => if k' = k then b else Memory.read rest k

/-- The cell `(k, b)` before `rest`, left out when it holds what an unlisted byte reads. -/
def Memory.putCell (k : Nat) (b : Byte) (rest : Memory) : Memory := if b = 0 then rest else (k, b) :: rest

/-- The storage with byte `b` at key `k`, in canonical form. -/
def Memory.write : Memory → Nat → Byte → Memory
  | [], k, b => Memory.putCell k b []
  | (k', b') :: rest, k, b =>
    if k < k' then Memory.putCell k b ((k', b') :: rest)
    else if k = k' then Memory.putCell k b rest
    else (k', b') :: Memory.write rest k b

/-- The key of `Line[set][w][o]`: the data-array address bits 11:0 (R243). -/
def lineKey (set : SetIdx) (w : Way) (o : Offset) : Nat := (w ++ set ++ o).toNat

/-- `Line[set][w][o]` (R14). -/
def State.lineByte (s : State) (set : SetIdx) (w : Way) (o : Offset) : Byte :=
  Memory.read s.lines (lineKey set w o)

/-- `Line[set][w][o] <- b` (R14). -/
def State.setLineByte (s : State) (set : SetIdx) (w : Way) (o : Offset) (b : Byte) : State :=
  { s with lines := Memory.write s.lines (lineKey set w o) b }

/-- `LineRead(set, w, o, n)`, zero-extended to 32 bits (spec/20_memory.md R76). -/
def State.lineRead (s : State) (set : SetIdx) (w : Way) (o : Offset) : Size → Word
  | .byte => (s.lineByte set w o).setWidth 32
  | .word => (s.lineByte set w o ++ s.lineByte set w (o + 1)).setWidth 32
  | .long => s.lineByte set w o ++ s.lineByte set w (o + 1) ++ s.lineByte set w (o + 2) ++
      s.lineByte set w (o + 3)

/-- `LineWrite(set, w, o, n, v)` (R76): the most significant byte at the lowest offset. -/
def State.lineWrite (s : State) (set : SetIdx) (w : Way) (o : Offset) (n : Size) (v : Word) : State :=
  match n with
  | .byte => s.setLineByte set w o (v.extractLsb' 0 8)
  | .word => (s.setLineByte set w o (v.extractLsb' 8 8)).setLineByte set w (o + 1) (v.extractLsb' 0 8)
  | .long =>
    (((s.setLineByte set w o (v.extractLsb' 24 8)).setLineByte set w (o + 1) (v.extractLsb' 16 8)).setLineByte
      set w (o + 2) (v.extractLsb' 8 8)).setLineByte set w (o + 3) (v.extractLsb' 0 8)

/-! Tags, LRU states and the control registers. -/

/-- `Tag[set][w]` (R14). -/
def State.tagAt (s : State) (set : SetIdx) (w : Way) : Word :=
  (s.tags[set.toNat]'set.isLt)[w.toNat]'w.isLt

/-- `Tag[set][w] <- t` (R14). -/
def State.setTag (s : State) (set : SetIdx) (w : Way) (t : Word) : State :=
  { s with tags := s.tags.set set.toNat ((s.tags[set.toNat]'set.isLt).set w.toNat t w.isLt) set.isLt }

/-- `Lru[set]` (R14). -/
def State.lruAt (s : State) (set : SetIdx) : LruBits := s.lru[set.toNat]'set.isLt

/-- `Lru[set] <- l` (R14). -/
def State.setLru (s : State) (set : SetIdx) (l : LruBits) : State :=
  { s with lru := s.lru.set set.toNat l set.isLt }

/-- `enabled <- b` (R32). -/
def State.setEnabled (s : State) (b : Bool) : State := { s with enabled := b }

/-- `repl_mask <- m; repl_bias[0] <- bd; repl_bias[1] <- bi` (R39). -/
def State.setRepl (s : State) (m : LruBits) (bd bi : Way) : State :=
  { s with replMask := m, replBiasData := bd, replBiasInstr := bi }

/-- `repl_bias[k]` (R39). -/
def State.replBias (s : State) : Kind → Way
  | .data => s.replBiasData
  | .instruction => s.replBiasInstr

/-- Every tag, line byte and LRU state zero: `cache_clear` (R48, R270). -/
def State.clearArrays (s : State) : State :=
  { s with
    tags := Vector.replicate 64 (Vector.replicate 4 0)
    lines := []
    lru := Vector.replicate 64 0 }

/-! Outputs. -/

/-- The block puts out `e`. -/
def State.emit (s : State) (e : Event) : State := { s with trace := s.trace ++ [e] }

/-- `respond(v, c)` and `respond(c)` (R14). -/
def State.respond (s : State) (v : Option Word) (c : Nat) : State := s.emit (.response v c)

/-- `Diag(Misaligned(A, n))` when the masking changes the address `A` (R78). -/
def State.noteAlign (s : State) (n : Size) (a : Word) : State :=
  if align n a = a then s else s.emit (.diag (.misaligned a n))

/-! Faults. This is the one operation that takes a fault; there is no return from one (R297). -/

/-- `raise Fault(f)` (spec/60_exceptions.md R292): `faulted <- 1`, with the reason. What the request has done
before stays (R293). -/
def State.raise (s : State) (f : Fault) : State := { s with faulted := some f }

/-! The bus (spec/20_memory.md R72, R73). -/

/-- What the bus answers to the next call: the next listed answer, or the free value (log 3). DESIGN CHOICE, unsafe
(log 12): the free value knows no processor, so two copies of the block that list no answer and have made as many
calls draw equal values at one address and size, where the bus may answer them differently. -/
def State.nextAnswer (s : State) (a : Word) (n : Size) : BusAnswer :=
  match s.busAnswers with
  | ans :: _ => ans
  | [] => Config.busAnswer s.busCalls a n

/-- One bus call has been made. -/
def State.countCall (s : State) : State :=
  { s with busAnswers := s.busAnswers.tail, busCalls := s.busCalls + 1 }

/-- `(v, c) <- MemRead(a, n)` (R72): the value's low `8n` bits and the cost, 0 when the bus reports none; or
`none`, with the fault raised, when the bus fails the call (R293). -/
def State.memRead (s : State) (a : Word) (n : Size) : Option (Word × Nat) × State :=
  let ans := s.nextAnswer a n
  let s' := s.countCall.emit (.busRead a n ans)
  match ans with
  | .done v c => (some (lowBits n v, c.getD 0), s')
  | .fatal => (none, s'.raise (.busFault a n))

/-- `c <- MemWrite(a, n, v)` (R72), likewise. -/
def State.memWrite (s : State) (a : Word) (n : Size) (v : Word) : Option Nat × State :=
  let ans := s.nextAnswer a n
  let s' := s.countCall.emit (.busWrite a n (lowBits n v) ans)
  match ans with
  | .done _ c => (some (c.getD 0), s')
  | .fatal => (none, s'.raise (.busFault a n))

/-- One bus read answered to the requester, its cost unmodified: `uncached_read` (R140), `pass_read` (R190)
and `read_miss_novictim` (R147). -/
def State.busRead (s : State) (a : Word) (n : Size) : State :=
  match s.memRead a n with
  | (some (v, c), s') => s'.respond (some v) c
  | (none, s') => s'

/-- One bus write, its cost unmodified: `uncached_write` (R140), `pass_write` (R190) and the bus half of
`cached_write` (R149). -/
def State.busWrite (s : State) (a : Word) (n : Size) (v : Word) : State :=
  match s.memWrite a n v with
  | (some c, s') => s'.respond none c
  | (none, s') => s'

end Sys2Proof.Machine
end

