-- ==== Sys2Proof/Machine/Flags.lean ====
section
/-! DEFINITION. The block has no condition codes. Its status bits are `enabled` with the input
`CFG_CACHE_ENABLE` (spec/10_state.md R32, R40), the validity bit V of a tag word (R34) and the pseudo-LRU bits
(R36 to R39). This file holds what is computed from them. -/

namespace Sys2Proof.Machine

/-- A Use-region request is cached when `CFG_CACHE_ENABLE = 1` and `enabled = 1` (spec/40_cached_access.md
R140). -/
def State.cachedEnabled (s : State) : Bool := s.cfgCacheEnable && s.enabled

/-- The tag word with V cleared, the rest left (spec/42_purge.md R230). -/
def clearValid (t : Word) : Word := t &&& ~~~0x00000002#32

/-- `plru_update(l, w) = (l & PLRU_AND[w]) | PLRU_OR[w]` (R38). -/
def plruUpdate (p : Params) (l : LruBits) (w : Way) : LruBits :=
  (l &&& p.plruAnd[w.toNat]'w.isLt) ||| p.plruOr[w.toNat]'w.isLt

/-- `Lru[set] <- plru_update(Lru[set], w)` (R38). -/
def State.touch (s : State) (set : SetIdx) (w : Way) : State :=
  s.setLru set (plruUpdate s.params (s.lruAt set) w)

/-- `VICTIM_TABLE[Lru[set] & repl_mask]` (R145). -/
def State.rawVictim (s : State) (set : SetIdx) : Option Way :=
  s.params.victimTable[(s.lruAt set &&& s.replMask).toNat]'(s.lruAt set &&& s.replMask).isLt

/-- `select_victim(set, k)` (R146): none stays none, a way is ORed with `repl_bias[k]`. -/
def State.selectVictim (s : State) (set : SetIdx) (k : Kind) : Option Way :=
  (s.rawVictim set).map (· ||| s.replBias k)

end Sys2Proof.Machine
end

