-- ==== Sys2Proof/Machine/ArrayPort.lean ====
section
/-! DEFINITION. The direct array diagnostic port (spec/43_direct_array.md): the address-array window and the
data-array window. Neither looks up a tag, makes a bus access or reads an enable flag. -/

namespace Sys2Proof.Machine

/-- The address-array read (R240, R241): the way is `AA_WAY`, the set address bits 9:4. -/
def State.addressArrayRead (s : State) (a : Word) : State :=
  let s₁ := s.noteAlign .long a
  let set := setOfAddr (align .long a)
  s₁.respond (some (composite (s₁.tagAt set s₁.aaWay) (s₁.lruAt set))) s₁.params.arrayCost

/-- The address-array write (R240, R242): tag and LRU state in one step. -/
def State.addressArrayWrite (s : State) (a d : Word) : State :=
  let s₁ := s.noteAlign .long a
  let a' := align .long a
  ((s₁.setTag (setOfAddr a') s₁.aaWay (writtenTag s₁.params.aaWriteSource a' d)).setLru (setOfAddr a')
    (writtenLru d)).respond none s₁.params.arrayCost

/-- A data-array read (R243 to R246). -/
def State.dataArrayRead (s : State) (n : Size) (a : Word) : State :=
  let s₁ := s.noteAlign n a
  let a' := align n a
  s₁.respond (some (s₁.lineRead (setOfAddr a') (dataArrayWay a') (offOf a') n)) s₁.params.arrayCost

/-- A data-array write (R243, R247 to R249). -/
def State.dataArrayWrite (s : State) (n : Size) (a d : Word) : State :=
  let s₁ := s.noteAlign n a
  let a' := align n a
  (s₁.lineWrite (setOfAddr a') (dataArrayWay a') (offOf a') n d).respond none s₁.params.arrayCost

/-- AA.RD.L (R241). -/
def execAaRdL (_k : Kind) (a : Word) (s : State) : Host.Outcome State Fault Refusal :=
  .next (s.addressArrayRead a)

/-- AA.WR.L (R242). -/
def execAaWrL (a d : Word) (s : State) : Host.Outcome State Fault Refusal :=
  .next (s.addressArrayWrite a d)

/-- DA.RD.B (R244). -/
def execDaRdB (_k : Kind) (a : Word) (s : State) : Host.Outcome State Fault Refusal :=
  .next (s.dataArrayRead .byte a)

/-- DA.RD.W (R245). -/
def execDaRdW (_k : Kind) (a : Word) (s : State) : Host.Outcome State Fault Refusal :=
  .next (s.dataArrayRead .word a)

/-- DA.RD.L (R246). -/
def execDaRdL (_k : Kind) (a : Word) (s : State) : Host.Outcome State Fault Refusal :=
  .next (s.dataArrayRead .long a)

/-- DA.WR.B (R247). -/
def execDaWrB (a d : Word) (s : State) : Host.Outcome State Fault Refusal :=
  .next (s.dataArrayWrite .byte a d)

/-- DA.WR.W (R248). -/
def execDaWrW (a d : Word) (s : State) : Host.Outcome State Fault Refusal :=
  .next (s.dataArrayWrite .word a d)

/-- DA.WR.L (R249). -/
def execDaWrL (a d : Word) (s : State) : Host.Outcome State Fault Refusal :=
  .next (s.dataArrayWrite .long a d)

end Sys2Proof.Machine
end

