-- ==== Sys2Proof/Machine/Control.lean ====
section
/-! DEFINITION. The control commands (spec/44_control.md R270 to R273). Each makes no bus access and responds
with cost 0. -/

namespace Sys2Proof.Machine

/-- `repl_mask` as SETREPL takes it from its operand, `D[5:0]` (R273). -/
def replMaskField (d : Word) : LruBits := d.extractLsb' 0 6

/-- `repl_bias[0]` as SETREPL takes it from its operand, `D[9:8]` (R273). -/
def replBiasDataField (d : Word) : Way := d.extractLsb' 8 2

/-- `repl_bias[1]` as SETREPL takes it from its operand, `D[11:10]` (R273). -/
def replBiasInstrField (d : Word) : Way := d.extractLsb' 10 2

/-- RESET (R270): everything of R48 but `faulted`. -/
def execReset (s : State) : Host.Outcome State Fault Refusal :=
  .next (((s.clearArrays.setEnabled false).setRepl s.params.replMaskReset s.params.replBiasDataReset
    s.params.replBiasInstrReset).respond none 0)

/-- ENABLE (R271). -/
def execEnable (s : State) : Host.Outcome State Fault Refusal :=
  .next ((s.setEnabled true).respond none 0)

/-- DISABLE (R272). -/
def execDisable (s : State) : Host.Outcome State Fault Refusal :=
  .next ((s.setEnabled false).respond none 0)

/-- SETREPL (R273). -/
def execSetrepl (d : Word) (s : State) : Host.Outcome State Fault Refusal :=
  .next ((s.setRepl (replMaskField d) (replBiasDataField d) (replBiasInstrField d)).respond none 0)

end Sys2Proof.Machine
end

