-- ==== Sys2Proof/Machine/PassThrough.lean ====
section
/-! DEFINITION. Pass-through access: the Through, IO and unmapped regions (spec/41_pass_through.md). Eighteen
commands over one procedure (R190), which looks at no tag, line, LRU state or enable flag. -/

namespace Sys2Proof.Machine

/-- `pass_read(a, n)` at the aligned address (R190). -/
def State.passRead (s : State) (n : Size) (a : Word) : State := (s.noteAlign n a).busRead (align n a) n

/-- `pass_write(a, n)` at the aligned address (R190). -/
def State.passWrite (s : State) (n : Size) (a d : Word) : State :=
  (s.noteAlign n a).busWrite (align n a) n d

/-- THR.RD.B (R191). -/
def execThrRdB (_k : Kind) (a : Word) (s : State) : Host.Outcome State Fault Refusal :=
  .next (s.passRead .byte a)

/-- THR.RD.W (R192). -/
def execThrRdW (_k : Kind) (a : Word) (s : State) : Host.Outcome State Fault Refusal :=
  .next (s.passRead .word a)

/-- THR.RD.L (R193). -/
def execThrRdL (_k : Kind) (a : Word) (s : State) : Host.Outcome State Fault Refusal :=
  .next (s.passRead .long a)

/-- THR.WR.B (R194). -/
def execThrWrB (a d : Word) (s : State) : Host.Outcome State Fault Refusal :=
  .next (s.passWrite .byte a d)

/-- THR.WR.W (R195). -/
def execThrWrW (a d : Word) (s : State) : Host.Outcome State Fault Refusal :=
  .next (s.passWrite .word a d)

/-- THR.WR.L (R196). -/
def execThrWrL (a d : Word) (s : State) : Host.Outcome State Fault Refusal :=
  .next (s.passWrite .long a d)

/-- IO.RD.B (R197). -/
def execIoRdB (_k : Kind) (a : Word) (s : State) : Host.Outcome State Fault Refusal :=
  .next (s.passRead .byte a)

/-- IO.RD.W (R198). -/
def execIoRdW (_k : Kind) (a : Word) (s : State) : Host.Outcome State Fault Refusal :=
  .next (s.passRead .word a)

/-- IO.RD.L (R199). -/
def execIoRdL (_k : Kind) (a : Word) (s : State) : Host.Outcome State Fault Refusal :=
  .next (s.passRead .long a)

/-- IO.WR.B (R200). -/
def execIoWrB (a d : Word) (s : State) : Host.Outcome State Fault Refusal :=
  .next (s.passWrite .byte a d)

/-- IO.WR.W (R201). -/
def execIoWrW (a d : Word) (s : State) : Host.Outcome State Fault Refusal :=
  .next (s.passWrite .word a d)

/-- IO.WR.L (R202). -/
def execIoWrL (a d : Word) (s : State) : Host.Outcome State Fault Refusal :=
  .next (s.passWrite .long a d)

/-- UNM.RD.B (R203). -/
def execUnmRdB (_k : Kind) (a : Word) (s : State) : Host.Outcome State Fault Refusal :=
  .next (s.passRead .byte a)

/-- UNM.RD.W (R204). -/
def execUnmRdW (_k : Kind) (a : Word) (s : State) : Host.Outcome State Fault Refusal :=
  .next (s.passRead .word a)

/-- UNM.RD.L (R205). -/
def execUnmRdL (_k : Kind) (a : Word) (s : State) : Host.Outcome State Fault Refusal :=
  .next (s.passRead .long a)

/-- UNM.WR.B (R206). -/
def execUnmWrB (a d : Word) (s : State) : Host.Outcome State Fault Refusal :=
  .next (s.passWrite .byte a d)

/-- UNM.WR.W (R207). -/
def execUnmWrW (a d : Word) (s : State) : Host.Outcome State Fault Refusal :=
  .next (s.passWrite .word a d)

/-- UNM.WR.L (R208). -/
def execUnmWrL (a d : Word) (s : State) : Host.Outcome State Fault Refusal :=
  .next (s.passWrite .long a d)

end Sys2Proof.Machine
end

