-- ==== Sys2Proof/Machine/Purge.lean ====
section
/-! DEFINITION. The associative purge (spec/42_purge.md). -/

namespace Sys2Proof.Machine

/-- One way of the purge's scan (R230): V is cleared where the tag word is `t`. -/
def State.purgeWay (s : State) (set : SetIdx) (t : Word) (w : Way) : State :=
  if s.tagAt set w = t then s.setTag set w (clearValid (s.tagAt set w)) else s

/-- `purge(a)` (R230): every way of the set, with no priority and no early exit. -/
def State.purge (s : State) (a : Word) : State :=
  ([0#2, 1#2, 2#2, 3#2].foldl (fun s w => s.purgeWay (setOfAddr a) (formTag a) w) s).respond none
    s.params.arrayCost

/-- PRG.WR.L (R231). The data operand is not examined. -/
def execPrgWrL (a _d : Word) (s : State) : Host.Outcome State Fault Refusal :=
  .next ((s.noteAlign .long a).purge (align .long a))

end Sys2Proof.Machine
end

