-- ==== Sys2Proof/Machine/UseAccess.lean ====
section
/-! DEFINITION. Cached access, the Use region (spec/40_cached_access.md): the lookup, the read hit with its
coherency check, the line-fill sequencer, the cached write, and the six Use-region commands. -/

namespace Sys2Proof.Machine

/-- `lookup(a)` (R142): way 3 first, the first way whose whole tag word is `form_tag(a)`. -/
def State.lookup (s : State) (a : Word) : Option Way :=
  [3#2, 2#2, 1#2, 0#2].find? fun w => s.tagAt (setOfAddr a) w == formTag a

/-- `coherency_check(a, n, v)` (spec/44_control.md R280). It answers whether the request goes on: a bus that
fails the call raises its fault here too (log 7). -/
def State.checkCoherency (s : State) (a : Word) (n : Size) (v : Word) : Bool × State :=
  match s.memRead a n with
  | (some (b, _), s') => (true, if b = v then s' else s'.emit (.diag (.coherencyMismatch a n v b)))
  | (none, s') => (false, s')

/-- `read_hit(a, n, w)` (R143). -/
def State.readHit (s : State) (a : Word) (n : Size) (w : Way) : State :=
  let s₁ := s.touch (setOfAddr a) w
  let v := s₁.lineRead (setOfAddr a) w (offOf a) n
  if s.params.coherencyCheck then
    match s₁.checkCoherency a n v with
    | (true, s₂) => s₂.respond (some v) s.params.hitCost
    | (false, s₂) => s₂
  else s₁.respond (some v) s.params.hitCost

/-- The four chunk offsets `(o + 4 + 4*i) & 0xC`, in the order they are read (R148). -/
def chunkOffsets (o : Offset) : List Offset :=
  [0#4, 1#4, 2#4, 3#4].map fun i => (o + 4#4 + 4#4 * i) &&& 0xC#4

/-- The chunk loop of R148: read each chunk of the line at `base`, store it, add up the costs. It answers the
total, or `none` when the bus fails a chunk; the chunks before stay written (R293). -/
def fillChunks (base : Word) (set : SetIdx) (w : Way) : List Offset → Nat → State → Option Nat × State
  | [], total, s => (some total, s)
  | off :: rest, total, s =>
    match s.memRead (base + off.setWidth 32) .long with
    | (some (v, c), s') => fillChunks base set w rest (total + c) (s'.lineWrite set w off .long v)
    | (none, s') => (none, s')

/-- `min(total << 1, 128)` (R148, spec/70_reset_and_hazards.md R332). -/
def refillCost (total : Nat) : Nat := min (total <<< 1) 128

/-- `refill_read(a, n, w)` (R148). -/
def State.refillRead (s : State) (a : Word) (n : Size) (w : Way) : State :=
  let s₁ := (s.touch (setOfAddr a) w).setTag (setOfAddr a) w (formTag a)
  match fillChunks (lineBase a) (setOfAddr a) w (chunkOffsets (offOf a)) 0 s₁ with
  | (some total, s₂) => s₂.respond (some (s₂.lineRead (setOfAddr a) w (offOf a) n)) (refillCost total)
  | (none, s₂) => s₂

/-- A cached read at the aligned address `a` (R141 to R148). -/
def State.cachedRead (s : State) (a : Word) (n : Size) (k : Kind) : State :=
  match s.lookup a with
  | some w => s.readHit a n w
  | none =>
    match s.selectVictim (setOfAddr a) k with
    | none => s.busRead a n
    | some w => s.refillRead a n w

/-- What a write hit on way `w` does to the block (R149). -/
def State.writeHit (s : State) (a : Word) (n : Size) (w : Way) (d : Word) : State :=
  let s₁ := s.lineWrite (setOfAddr a) w (offOf a) n d
  if s.params.writeHitUpdatesLru then s₁.touch (setOfAddr a) w else s₁

/-- `cached_write(a, n)` (R149): write-through, no write-allocate. -/
def State.cachedWrite (s : State) (a : Word) (n : Size) (d : Word) : State :=
  match s.lookup a with
  | some w => (s.writeHit a n w d).busWrite a n d
  | none => s.busWrite a n d

/-- A Use-region read (R140, R150 to R152). -/
def State.useRead (s : State) (n : Size) (k : Kind) (a : Word) : State :=
  let s₁ := s.noteAlign n a
  if s.cachedEnabled then s₁.cachedRead (align n a) n k else s₁.busRead (align n a) n

/-- A Use-region write (R140, R153 to R155). -/
def State.useWrite (s : State) (n : Size) (a d : Word) : State :=
  let s₁ := s.noteAlign n a
  if s.cachedEnabled then s₁.cachedWrite (align n a) n d else s₁.busWrite (align n a) n d

/-- USE.RD.B (R150). -/
def execUseRdB (k : Kind) (a : Word) (s : State) : Host.Outcome State Fault Refusal :=
  .next (s.useRead .byte k a)

/-- USE.RD.W (R151). -/
def execUseRdW (k : Kind) (a : Word) (s : State) : Host.Outcome State Fault Refusal :=
  .next (s.useRead .word k a)

/-- USE.RD.L (R152). -/
def execUseRdL (k : Kind) (a : Word) (s : State) : Host.Outcome State Fault Refusal :=
  .next (s.useRead .long k a)

/-- USE.WR.B (R153). -/
def execUseWrB (a d : Word) (s : State) : Host.Outcome State Fault Refusal :=
  .next (s.useWrite .byte a d)

/-- USE.WR.W (R154). -/
def execUseWrW (a d : Word) (s : State) : Host.Outcome State Fault Refusal :=
  .next (s.useWrite .word a d)

/-- USE.WR.L (R155). -/
def execUseWrL (a d : Word) (s : State) : Host.Outcome State Fault Refusal :=
  .next (s.useWrite .long a d)

end Sys2Proof.Machine
end

