-- ==== Sys2Proof/Machine/Dispatch.lean ====
section
/-! DEFINITION. The meaning of every command, one arm per constructor of Instr. -/

namespace Sys2Proof.Machine

def exec (i : Instr) (s : State) : Host.Outcome State Fault Refusal :=
  match i with
  | .useRdB k a => Sys2Proof.Machine.execUseRdB k a s
  | .useRdW k a => Sys2Proof.Machine.execUseRdW k a s
  | .useRdL k a => Sys2Proof.Machine.execUseRdL k a s
  | .useWrB a d => Sys2Proof.Machine.execUseWrB a d s
  | .useWrW a d => Sys2Proof.Machine.execUseWrW a d s
  | .useWrL a d => Sys2Proof.Machine.execUseWrL a d s
  | .thrRdB k a => Sys2Proof.Machine.execThrRdB k a s
  | .thrRdW k a => Sys2Proof.Machine.execThrRdW k a s
  | .thrRdL k a => Sys2Proof.Machine.execThrRdL k a s
  | .thrWrB a d => Sys2Proof.Machine.execThrWrB a d s
  | .thrWrW a d => Sys2Proof.Machine.execThrWrW a d s
  | .thrWrL a d => Sys2Proof.Machine.execThrWrL a d s
  | .ioRdB k a => Sys2Proof.Machine.execIoRdB k a s
  | .ioRdW k a => Sys2Proof.Machine.execIoRdW k a s
  | .ioRdL k a => Sys2Proof.Machine.execIoRdL k a s
  | .ioWrB a d => Sys2Proof.Machine.execIoWrB a d s
  | .ioWrW a d => Sys2Proof.Machine.execIoWrW a d s
  | .ioWrL a d => Sys2Proof.Machine.execIoWrL a d s
  | .unmRdB k a => Sys2Proof.Machine.execUnmRdB k a s
  | .unmRdW k a => Sys2Proof.Machine.execUnmRdW k a s
  | .unmRdL k a => Sys2Proof.Machine.execUnmRdL k a s
  | .unmWrB a d => Sys2Proof.Machine.execUnmWrB a d s
  | .unmWrW a d => Sys2Proof.Machine.execUnmWrW a d s
  | .unmWrL a d => Sys2Proof.Machine.execUnmWrL a d s
  | .prgWrL a d => Sys2Proof.Machine.execPrgWrL a d s
  | .aaRdL k a => Sys2Proof.Machine.execAaRdL k a s
  | .aaWrL a d => Sys2Proof.Machine.execAaWrL a d s
  | .daRdB k a => Sys2Proof.Machine.execDaRdB k a s
  | .daRdW k a => Sys2Proof.Machine.execDaRdW k a s
  | .daRdL k a => Sys2Proof.Machine.execDaRdL k a s
  | .daWrB a d => Sys2Proof.Machine.execDaWrB a d s
  | .daWrW a d => Sys2Proof.Machine.execDaWrW a d s
  | .daWrL a d => Sys2Proof.Machine.execDaWrL a d s
  | .reset => Sys2Proof.Machine.execReset s
  | .enable => Sys2Proof.Machine.execEnable s
  | .disable => Sys2Proof.Machine.execDisable s
  | .setrepl d => Sys2Proof.Machine.execSetrepl d s

end Sys2Proof.Machine
end

