-- ==== Sys2Proof/Machine/Present.lean ====
section
/-! DEFINITION. How a command reaches the block: presenting the next one (spec/30_encoding.md R110), sampling
the inputs with it (spec/10_state.md R40, R41), and placing one in front of the others. -/

namespace Sys2Proof.Machine

/-- The block takes the command `r`, leaving `rest`, and samples the two inputs (R40, R41; log 2). -/
def State.take (s : State) (r : Request) (rest : List Request) : State :=
  { s with requests := rest, cfgCacheEnable := r.cfgCacheEnable, aaWay := r.aaWay }

/-- `Fault(InvalidRequest(reason, Q, D))` (spec/60_exceptions.md R291): nothing but the fault (R292). -/
def State.rejectRequest (s : State) (r : Request) (why : InvalidReason) : State :=
  s.raise (.invalidRequest why r.q r.d)

/-- The command in a frame of `nbits` bits (log 11): `Q` in bits 36:0, `D` in bits 71:40, every bit from
`nbits` up zero; the inputs as they were last sampled. -/
def State.frameRequest (s : State) (nbits w : Nat) : Request where
  q := BitVec.ofNat 37 (w % 2 ^ nbits)
  d := BitVec.ofNat 32 (w % 2 ^ nbits / 2 ^ 40)
  cfgCacheEnable := s.cfgCacheEnable
  aaWay := s.aaWay

/-- `s` with the command `r` presented next, before those already listed. -/
def State.presentNext (s : State) (r : Request) : State := { s with requests := r :: s.requests }

end Sys2Proof.Machine
end

