-- ==== Sys2Proof/Machine/Step.lean ====
section
/-! DEFINITION. One step of the block: one request run to completion (spec/20_memory.md R81,
spec/00_scope.md R8). -/

namespace Sys2Proof.Machine

/-- One step. A faulted block takes none (spec/10_state.md R43). With no command presented the block does
nothing (R31; log 1). A command that does not decode raises its fault (R117, R291); one that decodes is
executed. -/
def step (s : State) : Host.Outcome State Fault Refusal :=
  match s.faulted with
  | some f => .fault f
  | none =>
    match s.requests with
    | [] => .next s
    | r :: rest =>
      match decode s.params.regionMap r.q r.d with
      | .ok i => exec i (s.take r rest)
      | .error why => .next ((s.take r rest).rejectRequest r why)

/-- `s` with the framed command as the one `step` takes next (log 11). -/
def State.withFetchWord (s : State) (nbits w : Nat) : State := s.presentNext (s.frameRequest nbits w)

end Sys2Proof.Machine
end

