-- ==== Sys2Proof/Machine/Assembler.lean ====
section
/-! DEFINITION. The assembler syntax of spec/30_encoding.md R121 and the pseudo-instructions of R122. What R121
leaves open of the text (letter case, blanks, out-of-range numbers) is in log 13. -/

namespace Sys2Proof.Machine

/-- A line of assembler text: the requests and control commands of R121 and the pseudo-instructions of R122. -/
inductive AsmLine where
  | rd (n : Size) (k : Kind) (addr : Word)
  | wr (n : Size) (addr data : Word)
  | reset
  | enable
  | disable
  | setrepl (data : Word)
  | ifetch (addr : Word)
  | purge (addr : Word)
  | aaread (set : SetIdx)
  | aawrite (set : SetIdx) (tagaddr : Word) (v : BitVec 1) (lru : LruBits)
  | daread (n : Size) (way : Way) (set : SetIdx) (off : Offset)
  | dawrite (n : Size) (way : Way) (set : SetIdx) (off : Offset) (data : Word)
  | uncachedRd (n : Size) (addr : Word)
  deriving DecidableEq, Repr

/-- `0x60000000 | (<set> << 4)` (R122). -/
def asmAddressArray (set : SetIdx) : Word := 0x60000000#32 ||| (set.setWidth 32 <<< 4)

/-- `0xC0000000 | (<way> << 10) | (<set> << 4) | <off>` (R122). -/
def asmDataArray (way : Way) (set : SetIdx) (off : Offset) : Word :=
  0xC0000000#32 ||| (way.setWidth 32 <<< 10) ||| (set.setWidth 32 <<< 4) ||| off.setWidth 32

/-- The expansion of a pseudo-instruction (R122); any other line is itself. -/
def expandAsm : AsmLine → AsmLine
  | .ifetch addr => .rd .word .instruction addr
  | .purge addr => .wr .long ((addr &&& 0x1FFFFFFC#32) ||| 0x40000000#32) 0
  | .aaread set => .rd .long .data (asmAddressArray set)
  | .aawrite set tagaddr v lru =>
    .wr .long (asmAddressArray set)
      ((tagaddr &&& 0x1FFFFC00#32) ||| (lru.setWidth 32 <<< 4) ||| (v.setWidth 32 <<< 1))
  | .daread n way set off => .rd n .data (asmDataArray way set off)
  | .dawrite n way set off data => .wr n (asmDataArray way set off) data
  | .uncachedRd n addr => .rd n .data ((addr &&& 0x1FFFFFFF#32) ||| 0x20000000#32)
  | line => line

/-- The field `SZ` of a size (R111). -/
def sizeCode : Size → BitVec 2
  | .byte => 0b00#2
  | .word => 0b01#2
  | .long => 0b10#2

/-- The command word and operand of a line that is no pseudo-instruction (R111, R112, R121). -/
def assembleBasic : AsmLine → CmdWord × Word
  | .rd n k addr => (reqWord false (sizeCode n) (kindBit k) addr, 0)
  | .wr n addr data => (reqWord true (sizeCode n) 0#1 addr, data)
  | .reset => (ctrlWord 0b0000#4, 0)
  | .enable => (ctrlWord 0b0001#4, 0)
  | .disable => (ctrlWord 0b0010#4, 0)
  | .setrepl data => (ctrlWord 0b0011#4, data)
  | _ => (0, 0)

/-- The command word and operand of a line (R121, R122). -/
def assemble (line : AsmLine) : CmdWord × Word := assembleBasic (expandAsm line)

/-! The text. -/

/-- A blank. -/
def isBlankChar (c : Char) : Bool := c = ' ' || c = '\t'

/-- The text without blanks at either end. -/
def trimText (cs : List Char) : List Char :=
  ((cs.dropWhile isBlankChar).reverse.dropWhile isBlankChar).reverse

/-- The text cut at every `sep`. -/
def cutText (sep : Char) (cs : List Char) : List (List Char) :=
  cs.foldr (fun c parts => if c = sep then [] :: parts else
    match parts with
    | [] => [[c]]
    | p :: ps => (c :: p) :: ps) [[]]

/-- The sixteen digits of R121's numbers with capital letters, the digit of value `v` at place `v`. -/
def capitalDigits : List Char := "0123456789ABCDEF".toList

/-- The same digits with small letters. -/
def smallDigits : List Char := "0123456789abcdef".toList

/-- The value of a hexadecimal digit: its place among the sixteen. -/
def hexDigit (c : Char) : Option Nat := (capitalDigits.idxOf? c).or (smallDigits.idxOf? c)

/-- The digits of a hexadecimal number, added to `acc`. -/
def hexValue (acc : Nat) : List Char → Option Nat
  | [] => some acc
  | c :: cs => (hexDigit c).bind fun d => hexValue (acc * 16 + d) cs

/-- A number `0x...` of at most `w` bits (R121). -/
def parseNumber (w : Nat) (cs : List Char) : Option (BitVec w) :=
  if cs.take 2 = ['0', 'x'] ∧ cs.drop 2 ≠ [] then
    (hexValue 0 (cs.drop 2)).bind fun v => if v < 2 ^ w then some (BitVec.ofNat w v) else none
  else none

/-- A size letter (R121). -/
def parseSize (cs : List Char) : Option Size :=
  if cs = ['B'] then some .byte
  else if cs = ['W'] then some .word
  else if cs = ['L'] then some .long
  else none

/-- A kind letter (R121). -/
def parseKind (cs : List Char) : Option Kind :=
  if cs = ['D'] then some .data
  else if cs = ['I'] then some .instruction
  else none

/-- The region that the first part of a table mnemonic names (R120). -/
def parseRegion (cs : List Char) : Option Region :=
  if cs = ['U', 'S', 'E'] then some .use
  else if cs = ['T', 'H', 'R'] then some .through
  else if cs = ['I', 'O'] then some .io
  else if cs = ['U', 'N', 'M'] then some .unmapped
  else if cs = ['P', 'R', 'G'] then some .purge
  else if cs = ['A', 'A'] then some .addressArray
  else if cs = ['D', 'A'] then some .dataArray
  else none

/-- `RD.<sz> <kind>, <addr>` after the mnemonic (R121). -/
def parseRd (sz : List Char) : List (List Char) → Option AsmLine
  | [k, a] => do return .rd (← parseSize sz) (← parseKind k) (← parseNumber 32 a)
  | _ => none

/-- `WR.<sz> <addr>, <data>` after the mnemonic (R121). -/
def parseWr (sz : List Char) : List (List Char) → Option AsmLine
  | [a, d] => do return .wr (← parseSize sz) (← parseNumber 32 a) (← parseNumber 32 d)
  | _ => none

/-- A line whose table mnemonic is written directly names its region, which its address must select, and is
one of the rows of R120 (R121; log 13). -/
def inRegion (r : Option Region) (line : AsmLine) : Option AsmLine :=
  match line, r with
  | .rd n k a, some r =>
    if regionOf defaultRegionMap a = r ∧ (decodeRequest r false n k a 0).isOk = true then some line else none
  | .wr n a d, some r =>
    if regionOf defaultRegionMap a = r ∧ (decodeRequest r true n .data a d).isOk = true then some line else none
  | _, _ => none

/-- The statements without operands (R121). -/
def parseBare (mnemonic : List Char) : Option AsmLine :=
  if mnemonic = "RESET".toList then some .reset
  else if mnemonic = "ENABLE".toList then some .enable
  else if mnemonic = "DISABLE".toList then some .disable
  else none

/-- The statements of one operand, whose mnemonic has one part (R121, R122). -/
def parseUnary (mnemonic x : List Char) : Option AsmLine :=
  if mnemonic = "SETREPL".toList then (parseNumber 32 x).map .setrepl
  else if mnemonic = "IFETCH".toList then (parseNumber 32 x).map .ifetch
  else if mnemonic = "PURGE".toList then (parseNumber 32 x).map .purge
  else if mnemonic = "AAREAD".toList then (parseNumber 6 x).map .aaread
  else none

/-- `AAWRITE <set>, <tagaddr>, <v>, <lru>` (R122). -/
def parseAawrite : List (List Char) → Option AsmLine
  | [s, t, v, l] => do
    return .aawrite (← parseNumber 6 s) (← parseNumber 32 t) (← parseNumber 1 v) (← parseNumber 6 l)
  | _ => none

/-- `DAREAD.<sz> <way>, <set>, <off>` (R122). -/
def parseDaread (sz : List Char) : List (List Char) → Option AsmLine
  | [w, s, o] => do
    return .daread (← parseSize sz) (← parseNumber 2 w) (← parseNumber 6 s) (← parseNumber 4 o)
  | _ => none

/-- `DAWRITE.<sz> <way>, <set>, <off>, <data>` (R122). -/
def parseDawrite (sz : List Char) : List (List Char) → Option AsmLine
  | [w, s, o, d] => do
    return .dawrite (← parseSize sz) (← parseNumber 2 w) (← parseNumber 6 s) (← parseNumber 4 o)
      (← parseNumber 32 d)
  | _ => none

/-- The statements whose mnemonic ends in a size: `first.<sz>` (R121, R122). -/
def parseSized (first sz : List Char) (ops : List (List Char)) : Option AsmLine :=
  if first = "RD".toList then parseRd sz ops
  else if first = "WR".toList then parseWr sz ops
  else if first = "DAREAD".toList then parseDaread sz ops
  else if first = "DAWRITE".toList then parseDawrite sz ops
  else none

/-- The table mnemonics and `UNCACHED.RD.<sz>`: `first.dir.<sz>` (R121, R122). -/
def parseLong (first dir sz : List Char) (ops : List (List Char)) : Option AsmLine :=
  if first = "UNCACHED".toList then
    match ops with
    | [a] => if dir = "RD".toList then do return .uncachedRd (← parseSize sz) (← parseNumber 32 a) else none
    | _ => none
  else if dir = "RD".toList then (parseRd sz ops).bind (inRegion (parseRegion first))
  else if dir = "WR".toList then (parseWr sz ops).bind (inRegion (parseRegion first))
  else none

/-- A statement from the parts of its mnemonic and its operands (R121, R122). -/
def parseStatement (parts ops : List (List Char)) : Option AsmLine :=
  match parts with
  | [m] =>
    match ops with
    | [] => parseBare m
    | [x] => parseUnary m x
    | _ => if m = "AAWRITE".toList then parseAawrite ops else none
  | [first, sz] => parseSized first sz ops
  | [first, dir, sz] => parseLong first dir sz ops
  | _ => none

/-- The operands of a statement: none, or the text cut at its commas. -/
def parseOperands (cs : List Char) : List (List Char) :=
  if trimText cs = [] then [] else (cutText ',' cs).map trimText

/-- A line of text (R121): `none` when it is not of the syntax, `some none` when it holds no statement, only
blanks or a comment. -/
def parseLine (cs : List Char) : Option (Option AsmLine) :=
  let text := trimText (cs.takeWhile (· ≠ ';'))
  if text = [] then some none
  else
    (parseStatement (cutText '.' (text.takeWhile (!isBlankChar ·)))
      (parseOperands (text.dropWhile (!isBlankChar ·)))).map some

end Sys2Proof.Machine
end

