-- ==== Sys2Proof/Machine/System.lean ====
section
/-! DEFINITION. Several processors (spec/60_exceptions.md R303, spec/20_memory.md R90): independent copies of
the whole state, each driven by its own requester. They share only the bus, whose answers each copy draws: its own list, then the free value of the call's index,
address and size, which is the same function for every copy (log 12, DESIGN CHOICE). -/

namespace Sys2Proof.Machine

/-- Processor `p` of the system takes one step; the others stay. A stopped or absent processor takes none. -/
def stepProcessor (p : Nat) (sys : List State) : List State :=
  match sys[p]? with
  | none => sys
  | some s =>
    match step s with
    | .next s' => sys.set p s'
    | .fault _ => sys
    | .refused _ => sys

end Sys2Proof.Machine
end

