-- ==== Sys2Proof/Safety.lean ====
section
/-! DEFINITION. The terms claims are stated in: families of commands by size, what two states share, the events
of a request, the invariants, and what a safe run is. -/

namespace Sys2Proof

/-! Commands by size. -/

/-- The Use-region read of size `n`. -/
def useRd (n : Size) (k : Kind) (a : Word) : Instr :=
  match n with
  | .byte => .useRdB k a
  | .word => .useRdW k a
  | .long => .useRdL k a

/-- The Use-region write of size `n`. -/
def useWr (n : Size) (a d : Word) : Instr :=
  match n with
  | .byte => .useWrB a d
  | .word => .useWrW a d
  | .long => .useWrL a d

/-- The Through-region read of size `n`. -/
def thrRd (n : Size) (k : Kind) (a : Word) : Instr :=
  match n with
  | .byte => .thrRdB k a
  | .word => .thrRdW k a
  | .long => .thrRdL k a

/-- The Through-region write of size `n`. -/
def thrWr (n : Size) (a d : Word) : Instr :=
  match n with
  | .byte => .thrWrB a d
  | .word => .thrWrW a d
  | .long => .thrWrL a d

/-- The IO-region read of size `n`. -/
def ioRd (n : Size) (k : Kind) (a : Word) : Instr :=
  match n with
  | .byte => .ioRdB k a
  | .word => .ioRdW k a
  | .long => .ioRdL k a

/-- The IO-region write of size `n`. -/
def ioWr (n : Size) (a d : Word) : Instr :=
  match n with
  | .byte => .ioWrB a d
  | .word => .ioWrW a d
  | .long => .ioWrL a d

/-- The unmapped-region read of size `n`. -/
def unmRd (n : Size) (k : Kind) (a : Word) : Instr :=
  match n with
  | .byte => .unmRdB k a
  | .word => .unmRdW k a
  | .long => .unmRdL k a

/-- The unmapped-region write of size `n`. -/
def unmWr (n : Size) (a d : Word) : Instr :=
  match n with
  | .byte => .unmWrB a d
  | .word => .unmWrW a d
  | .long => .unmWrL a d

/-- The data-array read of size `n`. -/
def daRd (n : Size) (k : Kind) (a : Word) : Instr :=
  match n with
  | .byte => .daRdB k a
  | .word => .daRdW k a
  | .long => .daRdL k a

/-- The data-array write of size `n`. -/
def daWr (n : Size) (a d : Word) : Instr :=
  match n with
  | .byte => .daWrB a d
  | .word => .daWrW a d
  | .long => .daWrL a d

/-- The three pass-through reads of a size and kind at an address: THR, IO, UNM (R190). -/
def passRds (n : Size) (k : Kind) (a : Word) : List Instr := [thrRd n k a, ioRd n k a, unmRd n k a]

/-- The three pass-through writes of a size at an address: THR, IO, UNM (R190). -/
def passWrs (n : Size) (a d : Word) : List Instr := [thrWr n a d, ioWr n a d, unmWr n a d]

/-- The bits of a command word that its command ignores (R111, R112, R117). -/
def ignoredBits (i : Instr) : CmdWord :=
  match i.target with
  | none => 0x00FFFFFFFF#37
  | some _ => if (encode i).1.getLsbD 35 then 0x0100000000#37 else 0#37

/-- Whether the command takes the data operand `D` (R110): the writes, by their bit `W`, and SETREPL. -/
def usesData (i : Instr) : Bool :=
  match i.target with
  | none => i.row.mnemonic = "SETREPL"
  | some _ => (encode i).1.getLsbD 35

namespace Machine

/-! What two states share. -/

/-- The arrays read the same: every tag, every line byte, every LRU state. -/
structure SameArrays (s t : State) : Prop where
  tag : ∀ set w, t.tagAt set w = s.tagAt set w
  line : ∀ set w o, t.lineByte set w o = s.lineByte set w o
  lru : ∀ set, t.lruAt set = s.lruAt set

/-- The control registers, the parameters, the sampled inputs and the commands still to come are the same. -/
structure SameControl (s t : State) : Prop where
  enabled : t.enabled = s.enabled
  replMask : t.replMask = s.replMask
  replBiasData : t.replBiasData = s.replBiasData
  replBiasInstr : t.replBiasInstr = s.replBiasInstr
  params : t.params = s.params
  cfgCacheEnable : t.cfgCacheEnable = s.cfgCacheEnable
  aaWay : t.aaWay = s.aaWay
  requests : t.requests = s.requests

/-- No bus call was made between the two states. -/
structure SameBus (s t : State) : Prop where
  busAnswers : t.busAnswers = s.busAnswers
  busCalls : t.busCalls = s.busCalls

/-- `k` bus calls were made between the two states. -/
structure BusCallsMade (k : Nat) (s t : State) : Prop where
  busAnswers : t.busAnswers = s.busAnswers.drop k
  busCalls : t.busCalls = s.busCalls + k

/-- Everything is as before but what the block has put out: no array, control register, parameter, input or
fault changed and no bus call was made. -/
structure OnlyOutput (s t : State) : Prop where
  arrays : SameArrays s t
  control : SameControl s t
  faulted : t.faulted = s.faulted
  bus : SameBus s t

/-- Everything is as before but what the block has put out and the `k` bus calls it made. -/
structure OnlyBusUsed (k : Nat) (s t : State) : Prop where
  arrays : SameArrays s t
  control : SameControl s t
  faulted : t.faulted = s.faulted
  bus : BusCallsMade k s t

/-- The state with the two enable flags set as given (R32, R40). -/
def State.withFlags (s : State) (enabled cfg : Bool) : State :=
  { s with enabled := enabled, cfgCacheEnable := cfg }

/-- The state with `COHERENCY_CHECK` set as given (R280). -/
def State.withCheck (s : State) (b : Bool) : State := { s with params := { s.params with coherencyCheck := b } }

/-- The line bytes after a store of the low `8n` bits of `v` at `(set, w, o)`, most significant byte lowest
(R76), and every other line byte as before. -/
def Stored (set : SetIdx) (w : Way) (o : Offset) (n : Size) (v : Word) (s t : State) : Prop :=
  ∀ set' w' o', t.lineByte set' w' o' =
    if set' = set ∧ w' = w ∧ (o' - o).toNat < n.bytes then
      v.extractLsb' (8 * (n.bytes - 1 - (o' - o).toNat)) 8
    else s.lineByte set' w' o'

/-! Events. -/

/-- The diagnostic event of a request's alignment: `Misaligned(A, n)` when the masking changes `A` (R78). -/
def alignEvents (n : Size) (a : Word) : List Event :=
  if align n a = a then [] else [.diag (.misaligned a n)]

/-- What the bus answers to the `i`-th call from now, if that is a call of size `n` at `a` (log 3). -/
def State.answerAt (s : State) (i : Nat) (a : Word) (n : Size) : BusAnswer :=
  (s.busAnswers[i]?).getD (Config.busAnswer (s.busCalls + i) a n)

/-- The event is a bus read. -/
def isBusRead : Event → Bool
  | .busRead _ _ _ => true
  | _ => false

/-- The event is a bus write. -/
def isBusWrite : Event → Bool
  | .busWrite _ _ _ _ => true
  | _ => false

/-- The event is a response. -/
def isResponse : Event → Bool
  | .response _ _ => true
  | _ => false

/-- The event is a bus call that the bus failed (R293). -/
def isBusFailure : Event → Bool
  | .busRead _ _ .fatal => true
  | .busWrite _ _ _ .fatal => true
  | _ => false

/-! The lookup in the rules' words. -/

/-- Way `w` is the highest-numbered way of the set whose tag word is the formed tag (R142). -/
def HitsWay (s : State) (a : Word) (w : Way) : Prop :=
  s.tagAt (setOfAddr a) w = formTag a ∧ ∀ w' : Way, w < w' → s.tagAt (setOfAddr a) w' ≠ formTag a

/-- No way of the set holds the formed tag (R142). -/
def Misses (s : State) (a : Word) : Prop := ∀ w, s.tagAt (setOfAddr a) w ≠ formTag a

/-- `VICTIM_TABLE[Lru[s] & repl_mask]` for the set of `a` (R145). -/
def victimEntry (s : State) (a : Word) : Option Way :=
  s.params.victimTable[(s.lruAt (setOfAddr a) &&& s.replMask).toNat]'(s.lruAt (setOfAddr a) &&& s.replMask).isLt

/-- The offset of the `i`-th chunk of a refill at `a`, `(o + 4 + 4*i) & 0xC` (R148). -/
def chunkOff (a : Word) (i : Nat) : Offset := (offOf a + 4#4 + BitVec.ofNat 4 (4 * i)) &&& 0xC#4

/-- The bus address of the `i`-th chunk of a refill at `a` (R148). -/
def chunkAddr (a : Word) (i : Nat) : Word := lineBase a + (chunkOff a i).setWidth 32

/-- The set's pseudo-LRU state after a use of way `w`: `(Lru & PLRU_AND[w]) | PLRU_OR[w]` in the set of `a`,
every other set as before (R38). -/
def LruUsed (a : Word) (w : Way) (s t : State) : Prop :=
  ∀ set, t.lruAt set =
    if set = setOfAddr a then
      (s.lruAt set &&& s.params.plruAnd[w.toNat]'w.isLt) ||| s.params.plruOr[w.toNat]'w.isLt
    else s.lruAt set

/-- Way `w` of the set of `a` holds the formed tag of `a`, every other tag is as before (R148). -/
def TagInstalled (a : Word) (w : Way) (s t : State) : Prop :=
  ∀ set w', t.tagAt set w' = if set = setOfAddr a ∧ w' = w then formTag a else s.tagAt set w'

/-- The first `j` chunks of a refill at `a` stand in way `w` big-endian, chunk `i` holding `v i`; every other
line byte is as before (R148, R76). -/
structure ChunksStored (a : Word) (w : Way) (j : Nat) (v : Nat → Word) (s t : State) : Prop where
  filled : ∀ i < j, ∀ b < 4,
    t.lineByte (setOfAddr a) w (chunkOff a i + BitVec.ofNat 4 b) = (v i).extractLsb' (8 * (3 - b)) 8
  kept : ∀ i < 4, j ≤ i → ∀ b < 4,
    t.lineByte (setOfAddr a) w (chunkOff a i + BitVec.ofNat 4 b) =
      s.lineByte (setOfAddr a) w (chunkOff a i + BitVec.ofNat 4 b)
  others : ∀ set w' o, ¬(set = setOfAddr a ∧ w' = w) → t.lineByte set w' o = s.lineByte set w' o

/-- The events of the first `j` chunk reads of a refill at `a`, answered `v i` at cost `c i` (R148). -/
def chunkReads (a : Word) (j : Nat) (v : Nat → Word) (c : Nat → Option Nat) : List Event :=
  (List.range j).map fun i => .busRead (chunkAddr a i) .long (.done (v i) (c i))

/-- A cached read at the aligned address `a` of kind `k` misses and the victim is way `w` (R142, R145, R146). -/
structure RefillsWay (s : State) (a : Word) (k : Kind) (w : Way) : Prop where
  cfg : s.cfgCacheEnable = true
  enabled : s.enabled = true
  miss : Misses s a
  victim : ∃ raw, victimEntry s a = some raw ∧ w = raw ||| s.replBias k

/-- The two addresses have the same bits 28:4: they lie in one line (R233). -/
abbrev SameLine (a b : Word) : Prop := a.extractLsb' 4 25 = b.extractLsb' 4 25

/-! Invariants. -/

/-- Bits 31:29, 9:2 and 0 of a tag word are 0 (R33). -/
abbrev TagWordClean (t : Word) : Prop := t &&& 0xE00003FD#32 = 0

/-- The form the model keeps: the data storage canonical, every tag word's fixed bits 0 (R33), and as many bus
calls counted as the trace shows. -/
structure Inv (s : State) : Prop where
  lines : Memory.wf s.lines = true
  tags : ∀ set w, TagWordClean (s.tagAt set w)
  calls : s.trace.countP (fun e => isBusRead e || isBusWrite e) = s.busCalls

/-- "at most one way per set may match a given tag value" (R44): no two ways of a set hold the same valid tag. -/
def NoDuplicateTags (s : State) : Prop :=
  ∀ set (w w' : Way), s.tagAt set w = s.tagAt set w' → (s.tagAt set w).getLsbD 1 = true → w = w'

/-- The 24 LRU states of 95_test_vectors.md V-LRU-3, each the order of use of the four ways. -/
def orderedLru : List LruBits :=
  [0x00, 0x01, 0x03, 0x04, 0x06, 0x07, 0x0B, 0x0F, 0x14, 0x16, 0x1E, 0x1F] ++
    [0x20, 0x21, 0x29, 0x2B, 0x30, 0x34, 0x38, 0x39, 0x3B, 0x3C, 0x3E, 0x3F]

/-- The tables are those of R37 and R38. -/
structure DefaultTables (p : Params) : Prop where
  plruAnd : p.plruAnd = defaultPlruAnd
  plruOr : p.plruOr = defaultPlruOr
  victimTable : p.victimTable = defaultVictimTable

/-- A run of `k` steps is safe when it reaches a state and that state is not faulted: no command was invalid
and the bus failed no call (R291, R293). -/
def SafeRun (k : Nat) (s : State) : Prop :=
  ∃ t, Host.Core.run Sys2Proof.core k s = .next t ∧ State.faulted t = none

end Machine

end Sys2Proof
end

