-- ==== Sys2Proof/Certificates/Slice0/Obligations.lean ====
section
/-! DEFINITION. The statements for the provers. Each docstring cites the rules of spec/ it formalises. Where a
statement names `useRd`, `thrRd`, `ioRd`, `unmRd`, `daRd` (and `Wr`) it is about the three commands of that
family, one for each size `n`; `passRds` and `passWrs` are the nine reads and the nine writes of R191 to R208.
What a command puts out (bus calls, diagnostic events, its response) is what it adds to `trace` (log 8), and what
the bus answers to its next call is `nextAnswer` (log 3). Where a docstring names an 'own inference' of a section,
the spec marks that sentence as derived. -/

open Sys2Proof Sys2Proof.Machine

/-! Encoding. -/

/-- 95_test_vectors.md V-DEC-1: words written out from R111, R112 and R120 decode as the spec says. -/
def Obligations.DecodesSpecWords : Prop :=
  decode defaultRegionMap 0x0000001005#37 0 = .ok (.useRdB .data 0x00001005) ∧
  decode defaultRegionMap 0x0300001000#37 0 = .ok (.useRdW .instruction 0x00001000) ∧
  decode defaultRegionMap 0x0D40003010#37 7 = .ok (.prgWrL 0x40003010 7) ∧
  decode defaultRegionMap 0x0480001004#37 0 = .ok (.unmRdL .data 0x80001004) ∧
  decode defaultRegionMap 0x04A0001004#37 0 = .ok (.unmRdL .data 0xA0001004) ∧
  decode defaultRegionMap 0x02DFFFFC0B#37 0 = .ok (.daRdW .data 0xDFFFFC0B) ∧
  decode defaultRegionMap 0x13FFFFFFFF#37 0x63F = .ok (.setrepl 0x63F) ∧
  decode defaultRegionMap 0x1400000000#37 0 = .error .reservedCommand ∧
  decode defaultRegionMap 0x0600001000#37 0 = .error .reservedSize ∧
  decode defaultRegionMap 0x0440000000#37 0 = .error .purgeWidth ∧
  decode defaultRegionMap 0x0260000002#37 0 = .error .addressArrayWidth

/-- R110 to R116: under every region map, the word and operand of every well-formed command decode to it. -/
def Obligations.DecodeEncodeRoundTrip : Prop :=
  ∀ (m : RegionMap) (i : Instr), WellFormed m i → decode m (encode i).1 (encode i).2 = .ok i

/-- R111, R112, R116, R117: a word that decodes gives a well-formed command whose encoding has every bit of
the word but the ignored ones, and the data operand where the command takes one. -/
def Obligations.DecodeKeepsEveryBit : Prop :=
  ∀ (m : RegionMap) (q : CmdWord) (d : Word) (i : Instr), decode m q d = .ok i →
    WellFormed m i ∧ (encode i).1 = q &&& ~~~(ignoredBits i) ∧ (encode i).2 = if usesData i then d else 0

/-- R117, "The ignored bits ... never make a word invalid": words that agree but for the ignored bits of the
command one of them decodes to decode to the same command. -/
def Obligations.IgnoredBitsDoNotMatter : Prop :=
  ∀ (m : RegionMap) (q q' : CmdWord) (d : Word) (i : Instr), decode m q d = .ok i →
    q' &&& ~~~(ignoredBits i) = q &&& ~~~(ignoredBits i) → decode m q' d = .ok i

/-- R120: a word is a row's command exactly when it matches the row, under the default region map. -/
def Obligations.OpcodeRowsDecode : Prop :=
  ∀ (q : CmdWord) (d : Word), ∀ r ∈ opcodeRows,
    r.Matches q ↔ ∃ i, decode defaultRegionMap q d = .ok i ∧ i.row = r

/-- 30_encoding.md section 5's own inference, "No two rows match the same word, and a word no row matches is
invalid", under the default region map. -/
def Obligations.OpcodeRowsPartitionWords : Prop :=
  (∀ (q : CmdWord), ∀ r ∈ opcodeRows, ∀ r' ∈ opcodeRows, r.Matches q → r'.Matches q → r = r') ∧
  (∀ (q : CmdWord) (d : Word), (∀ r ∈ opcodeRows, ¬r.Matches q) ↔
    ∃ why, decode defaultRegionMap q d = .error why)

/-- R116, R117: the four invalid reasons and exactly when each is given, under every region map. -/
def Obligations.InvalidReasonsExactly : Prop :=
  ∀ (m : RegionMap) (q : CmdWord) (d : Word),
    (decode m q d = .error .reservedCommand ↔ q.getLsbD 36 = true ∧ 4 ≤ (q.extractLsb' 32 4).toNat) ∧
    (decode m q d = .error .reservedSize ↔ q.getLsbD 36 = false ∧ (q.extractLsb' 33 2).toNat = 3) ∧
    (decode m q d = .error .purgeWidth ↔
      q.getLsbD 36 = false ∧ (q.extractLsb' 33 2).toNat ≠ 3 ∧ regionOf m (q.extractLsb' 0 32) = .purge ∧
        ¬(q.getLsbD 35 = true ∧ (q.extractLsb' 33 2).toNat = 2)) ∧
    (decode m q d = .error .addressArrayWidth ↔
      q.getLsbD 36 = false ∧ (q.extractLsb' 33 2).toNat ≠ 3 ∧
        regionOf m (q.extractLsb' 0 32) = .addressArray ∧ (q.extractLsb' 33 2).toNat ≠ 2)

/-- R122: what the pseudo-instructions decode to, under the default region map. -/
def Obligations.PseudoInstructionsExpand : Prop :=
  (∀ a, decode defaultRegionMap (assemble (.ifetch a)).1 (assemble (.ifetch a)).2 =
    decodeRequest (regionOf defaultRegionMap a) false .word .instruction a 0) ∧
  (∀ a, decode defaultRegionMap (assemble (.purge a)).1 (assemble (.purge a)).2 =
    .ok (.prgWrL ((a &&& 0x1FFFFFFC#32) ||| 0x40000000#32) 0)) ∧
  (∀ set, ∃ a, decode defaultRegionMap (assemble (.aaread set)).1 (assemble (.aaread set)).2 =
    .ok (.aaRdL .data a) ∧ align .long a = a ∧ setOfAddr a = set) ∧
  (∀ set tagaddr v lru, ∃ a d,
    decode defaultRegionMap (assemble (.aawrite set tagaddr v lru)).1 (assemble (.aawrite set tagaddr v lru)).2 =
      .ok (.aaWrL a d) ∧ align .long a = a ∧ setOfAddr a = set ∧
      writtenTag .data a d = (tagaddr &&& 0x1FFFFC00#32) ||| (v.setWidth 32 <<< 1) ∧ writtenLru d = lru) ∧
  (∀ n way set off, ∃ a,
    decode defaultRegionMap (assemble (.daread n way set off)).1 (assemble (.daread n way set off)).2 =
      .ok (daRd n .data a) ∧ dataArrayWay a = way ∧ setOfAddr a = set ∧ offOf a = off) ∧
  (∀ n way set off d, ∃ a,
    decode defaultRegionMap (assemble (.dawrite n way set off d)).1 (assemble (.dawrite n way set off d)).2 =
      .ok (daWr n a d) ∧ dataArrayWay a = way ∧ setOfAddr a = set ∧ offOf a = off) ∧
  (∀ n a, decode defaultRegionMap (assemble (.uncachedRd n a)).1 (assemble (.uncachedRd n a)).2 =
    .ok (thrRd n .data ((a &&& 0x1FFFFFFF#32) ||| 0x20000000#32)))

/-! Steps. -/

/-- R8, R110, R116: where the next command decodes, a step of a block that is not faulted takes the command
from the requester, samples the two inputs with it and executes it; how commands and inputs are presented is the
model's choice (log 1, log 2). -/
def Obligations.StepRunsDecodedCommand : Prop :=
  ∀ (s : State) (r : Request) (rest : List Request) (i : Instr), s.faulted = none → s.requests = r :: rest →
    decode s.params.regionMap r.q r.d = .ok i →
    step s = exec i (s.take r rest) ∧ (s.take r rest).requests = rest ∧
      (s.take r rest).cfgCacheEnable = r.cfgCacheEnable ∧ (s.take r rest).aaWay = r.aaWay

/-- The command in a frame (log 11) is what the next step executes, with the inputs as they stand. -/
def Obligations.FramedCommandRuns : Prop :=
  ∀ (s : State) (nbits w : Nat) (i : Instr), s.faulted = none → s.params.regionMap = defaultRegionMap →
    decodeTableWord nbits w = some i → step (s.withFetchWord nbits w) = exec i s

/-- R31: with no command presented the block does nothing (log 1). -/
def Obligations.IdleBlockStays : Prop :=
  ∀ s : State, s.faulted = none → s.requests = [] → step s = .next s

/-- R291, R292, R117: a command that does not decode raises `Fault(InvalidRequest(reason, Q, D))` and does
nothing else: no array, control register, bus call, event or response; the block then takes no further step. -/
def Obligations.InvalidRequestOnlyFaults : Prop :=
  ∀ (s : State) (r : Request) (rest : List Request) (why : InvalidReason), s.faulted = none →
    s.requests = r :: rest → decode s.params.regionMap r.q r.d = .error why →
    ∃ t, step s = .next t ∧ t.faulted = some (.invalidRequest why r.q r.d) ∧ SameArrays s t ∧
      t.enabled = s.enabled ∧ t.replMask = s.replMask ∧ t.replBiasData = s.replBiasData ∧
      t.replBiasInstr = s.replBiasInstr ∧ t.params = s.params ∧ SameBus s t ∧ t.trace = s.trace ∧
      t.requests = rest ∧ ∀ u, step t ≠ .next u

/-- R43: a faulted block takes no further step, and no command clears the fault, RESET included (in the model the
step of a faulted block answers its fault, log 6). -/
def Obligations.FaultIsTerminal : Prop :=
  (∀ (s : State) (f : Fault), s.faulted = some f → step s = .fault f) ∧
  (∀ (i : Instr) (s t : State), s.faulted ≠ none → exec i s = .next t → t.faulted ≠ none)

/-- R290: a command that decodes, on a bus that fails no call, is answered and raises nothing. -/
def Obligations.ValidRequestNeverFaults : Prop :=
  ∀ (s : State) (r : Request) (rest : List Request) (i : Instr), s.faulted = none → s.requests = r :: rest →
    decode s.params.regionMap r.q r.d = .ok i → 4 ≤ s.busAnswers.length → .fatal ∉ s.busAnswers →
    ∃ t, step s = .next t ∧ t.faulted = none

/-- R110, R51, R14, R293: every command answers a next state and extends what the block has put out. What it adds
ends in its one response, or in the one bus call that failed: then it has raised `BusFault` at that call's address
and size and does not respond. Of a read hit whose coherency-check read the bus fails this is the model's own reading
of R293 (log 7, DEDUCED). -/
def Obligations.OneResponsePerCommand : Prop :=
  ∀ (i : Instr) (s : State), ∃ t pre e, exec i s = .next t ∧ t.trace = s.trace ++ pre ++ [e] ∧
    (∀ x ∈ pre, isResponse x = false ∧ isBusFailure x = false) ∧
    ((t.faulted = s.faulted ∧ ∃ v c, e = .response v c) ∨
      ∃ a n, t.faulted = some (.busFault a n) ∧ (e = .busRead a n .fatal ∨ ∃ v, e = .busWrite a n v .fatal))

/-! Alignment. -/

/-- R78: the aligned address is `A` rounded down to a multiple of `n`, in the same region; a misaligned word or
long request of any region acts as the request at the aligned address does after `Misaligned(A, n)` is put out, and
no aligned request puts it out. -/
def Obligations.MisalignedRequestsAreMasked : Prop :=
  (∀ n A, (align n A).toNat = A.toNat / n.bytes * n.bytes) ∧
  (∀ (m : RegionMap) n A, regionOf m (align n A) = regionOf m A) ∧
  (∀ (n : Size) (k : Kind) (A D : Word) (s : State), align n A ≠ A →
    let s' := s.emit (.diag (.misaligned A n))
    (∀ rd ∈ [useRd, thrRd, ioRd, unmRd, daRd], exec (rd n k A) s = exec (rd n k (align n A)) s') ∧
    (∀ wr ∈ [useWr, thrWr, ioWr, unmWr, daWr], exec (wr n A D) s = exec (wr n (align n A) D) s')) ∧
  (∀ (k : Kind) (A D : Word) (s : State), align .long A ≠ A →
    let s' := s.emit (.diag (.misaligned A .long))
    exec (.prgWrL A D) s = exec (.prgWrL (align .long A) D) s' ∧
    exec (.aaRdL k A) s = exec (.aaRdL k (align .long A)) s' ∧
    exec (.aaWrL A D) s = exec (.aaWrL (align .long A) D) s') ∧
  (∀ (n : Size) (k : Kind) (A D : Word) (s : State), align n A = A →
    ∀ i ∈ [useRd n k A, thrRd n k A, ioRd n k A, unmRd n k A, daRd n k A, useWr n A D, thrWr n A D, ioWr n A D,
        unmWr n A D, daWr n A D] ++ (if n = .long then [.prgWrL A D, .aaRdL k A, .aaWrL A D] else []),
      ∃ t es, exec i s = .next t ∧ t.trace = s.trace ++ es ∧ ∀ A' m, Event.diag (.misaligned A' m) ∉ es)

/-- R79: the masking changes neither the region, the tag nor the set of a request, and a long request's
aligned address has bit 1 clear. -/
def Obligations.AlignmentKeepsRegionTagSet : Prop :=
  (∀ (m : RegionMap) (n : Size) (A : Word), regionOf m (align n A) = regionOf m A ∧
    formTag (align n A) = formTag A ∧ setOfAddr (align n A) = setOfAddr A) ∧
  (∀ A : Word, (align .long A).getLsbD 1 = false)

/-! The Use region. -/

/-- R142, R34: the lookup finds the highest-numbered way whose whole tag word is the formed tag, misses when
there is none, and never finds a way with V = 0. -/
def Obligations.LookupHighestWayFirst : Prop :=
  ∀ (s : State) (a : Word),
    (∀ w, s.lookup a = some w ↔ HitsWay s a w) ∧ (s.lookup a = none ↔ Misses s a) ∧
    (∀ w, s.lookup a = some w → (s.tagAt (setOfAddr a) w).getLsbD 1 = true)

/-- R140: a Use-region request is cached when both enable flags are set. One that is not is one bus access at the
aligned address, its cost unmodified, and touches no state of the block. -/
def Obligations.UseRegionRouting : Prop :=
  ∀ (s : State) (n : Size) (k : Kind) (A D : Word),
    (s.cfgCacheEnable = true ∧ s.enabled = true →
      exec (useRd n k A) s = .next ((s.noteAlign n A).cachedRead (align n A) n k) ∧
      exec (useWr n A D) s = .next ((s.noteAlign n A).cachedWrite (align n A) n D)) ∧
    (∀ (v : Word) (c : Option Nat), ¬(s.cfgCacheEnable = true ∧ s.enabled = true) →
      s.nextAnswer (align n A) n = .done v c →
      (∃ t, exec (useRd n k A) s = .next t ∧ OnlyBusUsed 1 s t ∧
        t.trace = s.trace ++ alignEvents n A ++
          [.busRead (align n A) n (.done v c), .response (some (lowBits n v)) (c.getD 0)]) ∧
      (∃ t, exec (useWr n A D) s = .next t ∧ OnlyBusUsed 1 s t ∧
        t.trace = s.trace ++ alignEvents n A ++
          [.busWrite (align n A) n (lowBits n D) (.done v c), .response none (c.getD 0)]))

/-- R143: a cached read hit updates the set's LRU state for the hit way, answers from the line at `HIT_COST`, and
makes no bus access unless `COHERENCY_CHECK`, which reads the bus at the same address and width and puts out
`CoherencyMismatch` when the values differ; nothing else changes. -/
def Obligations.CachedReadHitAnswersLine : Prop :=
  ∀ (s : State) (n : Size) (k : Kind) (A b : Word) (w : Way) (c : Option Nat),
    s.cfgCacheEnable = true → s.enabled = true → HitsWay s (align n A) w →
    (s.params.coherencyCheck = true → s.nextAnswer (align n A) n = .done b c) →
    let v := s.lineRead (setOfAddr (align n A)) w (offOf (align n A)) n
    ∃ t, exec (useRd n k A) s = .next t ∧ LruUsed (align n A) w s t ∧
      (∀ set w', t.tagAt set w' = s.tagAt set w') ∧
      (∀ set w' o, t.lineByte set w' o = s.lineByte set w' o) ∧
      SameControl s t ∧ t.faulted = s.faulted ∧
      (s.params.coherencyCheck = false → SameBus s t ∧
        t.trace = s.trace ++ alignEvents n A ++ [.response (some v) s.params.hitCost]) ∧
      (s.params.coherencyCheck = true → BusCallsMade 1 s t ∧
        t.trace = s.trace ++ alignEvents n A ++ [.busRead (align n A) n (.done b c)] ++
          (if lowBits n b = v then [] else [.diag (.coherencyMismatch (align n A) n v (lowBits n b))]) ++
          [.response (some v) s.params.hitCost])

/-- R280, "It changes no state and not the value or cost returned", "It runs on cached read hits only": two runs
that differ only in `COHERENCY_CHECK`. A hit on a bus that answers leaves the same arrays, fault and response; every
command that is not a cached read hit does the same in all it does. -/
def Obligations.CoherencyCheckOnlyObserves : Prop :=
  (∀ (s t u : State) (n : Size) (k : Kind) (A b : Word) (c : Option Nat), s.cachedEnabled = true →
    s.lookup (align n A) ≠ none → s.nextAnswer (align n A) n = .done b c →
    exec (useRd n k A) (s.withCheck true) = .next t → exec (useRd n k A) (s.withCheck false) = .next u →
    SameArrays u t ∧ t.faulted = u.faulted ∧ t.trace.getLast? = u.trace.getLast?) ∧
  (∀ (i : Instr) (s t : State) (b : Bool),
    (∀ n k A, i = useRd n k A → s.cachedEnabled = false ∨ s.lookup (align n A) = none) →
    exec i s = .next t → exec i (s.withCheck b) = .next (t.withCheck b))

/-- R147: a read miss with no victim is one bus read, its cost unmodified; no tag, line or LRU bit changes. -/
def Obligations.MissWithoutVictimBypasses : Prop :=
  ∀ (s : State) (n : Size) (k : Kind) (A v : Word) (c : Option Nat),
    s.cfgCacheEnable = true → s.enabled = true → Misses s (align n A) → victimEntry s (align n A) = none →
    s.nextAnswer (align n A) n = .done v c →
    ∃ t, exec (useRd n k A) s = .next t ∧ OnlyBusUsed 1 s t ∧
      t.trace = s.trace ++ alignEvents n A ++
        [.busRead (align n A) n (.done v c), .response (some (lowBits n v)) (c.getD 0)]

/-- R148 (with R145, R146): a read miss with a victim installs the tag, updates the LRU state once, reads the
four chunks in the order `(o + 4 + 4*i) & 0xC`, stores each big-endian, and answers from the filled line at
cost `min(total << 1, 128)`. -/
def Obligations.MissRefillsVictimLine : Prop :=
  ∀ (s : State) (n : Size) (k : Kind) (A : Word) (w : Way) (v : Nat → Word) (c : Nat → Option Nat),
    Memory.wf s.lines = true → RefillsWay s (align n A) k w →
    (∀ i < 4, s.answerAt i (chunkAddr (align n A) i) .long = .done (v i) (c i)) →
    ∃ t, exec (useRd n k A) s = .next t ∧ TagInstalled (align n A) w s t ∧ LruUsed (align n A) w s t ∧
      ChunksStored (align n A) w 4 v s t ∧ SameControl s t ∧ t.faulted = s.faulted ∧ BusCallsMade 4 s t ∧
      t.trace = s.trace ++ alignEvents n A ++ chunkReads (align n A) 4 v c ++
        [.response (some (t.lineRead (setOfAddr (align n A)) w (offOf (align n A)) n))
          (min (((c 0).getD 0 + (c 1).getD 0 + (c 2).getD 0 + (c 3).getD 0) <<< 1) 128)]

/-- R148, R152, R77: a refill answers with the big-endian part of the last chunk read at the requested
offset; a long is exactly the last chunk. -/
def Obligations.RefillAnswersFromLastChunk : Prop :=
  ∀ (s t : State) (n : Size) (k : Kind) (A : Word) (w : Way) (v : Nat → Word) (c : Nat → Option Nat),
    Memory.wf s.lines = true → RefillsWay s (align n A) k w →
    (∀ i < 4, s.answerAt i (chunkAddr (align n A) i) .long = .done (v i) (c i)) →
    exec (useRd n k A) s = .next t →
    ∃ cost, t.trace.getLast? = some (.response (some (lowBits n
      (v 3 >>> (8 * (4 - n.bytes - ((align n A).extractLsb' 0 2).toNat))))) cost)

/-- R332: a refill's reported cost is the doubled sum of the chunk costs, at most 128, even when under the cap,
and 128 when every chunk costs 16 or more. -/
def Obligations.RefillCostDoubledAndCapped : Prop :=
  ∀ (s : State) (n : Size) (k : Kind) (A : Word) (w : Way) (v : Nat → Word) (c : Nat → Option Nat),
    RefillsWay s (align n A) k w →
    (∀ i < 4, s.answerAt i (chunkAddr (align n A) i) .long = .done (v i) (c i)) →
    ∃ t value cost, exec (useRd n k A) s = .next t ∧ t.trace.getLast? = some (.response value cost) ∧
      cost = min (2 * ((c 0).getD 0 + (c 1).getD 0 + (c 2).getD 0 + (c 3).getD 0)) 128 ∧ cost ≤ 128 ∧
      (cost < 128 → cost % 2 = 0) ∧ ((∀ i < 4, 16 ≤ (c i).getD 0) → cost = 128)

/-- R293: a refill whose chunk `j` the bus fails keeps the tag, the LRU update and the chunks before, raises
`BusFault` at that chunk, reads no more and does not respond; the block then takes no further step. -/
def Obligations.RefillStopsAtBusFailure : Prop :=
  ∀ (s : State) (n : Size) (k : Kind) (A : Word) (w : Way) (j : Nat) (v : Nat → Word) (c : Nat → Option Nat),
    Memory.wf s.lines = true → RefillsWay s (align n A) k w → j < 4 →
    (∀ i < j, s.answerAt i (chunkAddr (align n A) i) .long = .done (v i) (c i)) →
    s.answerAt j (chunkAddr (align n A) j) .long = .fatal →
    ∃ t, exec (useRd n k A) s = .next t ∧ TagInstalled (align n A) w s t ∧ LruUsed (align n A) w s t ∧
      ChunksStored (align n A) w j v s t ∧ SameControl s t ∧ BusCallsMade (j + 1) s t ∧
      t.faulted = some (.busFault (chunkAddr (align n A) j) .long) ∧
      t.trace = s.trace ++ alignEvents n A ++ chunkReads (align n A) j v c ++
        [.busRead (chunkAddr (align n A) j) .long .fatal] ∧ ∀ u, step t ≠ .next u

/-- R293 with R147 and R280: a cached read whose one bus read fails raises `BusFault` and does not respond. With
no victim nothing of the block has changed; on a hit, where the bus is read only by the coherency check (log 7),
the LRU update has been made. -/
def Obligations.CachedReadBusFailureFaults : Prop :=
  ∀ (s : State) (n : Size) (k : Kind) (A : Word),
    s.cfgCacheEnable = true → s.enabled = true → s.nextAnswer (align n A) n = .fatal →
    (Misses s (align n A) → victimEntry s (align n A) = none →
      ∃ t, exec (useRd n k A) s = .next t ∧ t.faulted = some (.busFault (align n A) n) ∧ SameArrays s t ∧
        SameControl s t ∧ BusCallsMade 1 s t ∧
        t.trace = s.trace ++ alignEvents n A ++ [.busRead (align n A) n .fatal]) ∧
    (∀ w, HitsWay s (align n A) w → s.params.coherencyCheck = true →
      ∃ t, exec (useRd n k A) s = .next t ∧ t.faulted = some (.busFault (align n A) n) ∧
        LruUsed (align n A) w s t ∧ (∀ set w', t.tagAt set w' = s.tagAt set w') ∧
        (∀ set w' o, t.lineByte set w' o = s.lineByte set w' o) ∧ SameControl s t ∧ BusCallsMade 1 s t ∧
        t.trace = s.trace ++ alignEvents n A ++ [.busRead (align n A) n .fatal])

/-- R149: a cached write stores the low bytes big-endian into the hit way, updates the LRU state when
`WRITE_HIT_UPDATES_LRU`, and on a miss changes nothing of the block; in both cases it is one bus write of the
low bits, its cost unmodified. -/
def Obligations.CachedWriteGoesThrough : Prop :=
  ∀ (s : State) (n : Size) (A D v : Word) (c : Option Nat),
    s.cfgCacheEnable = true → s.enabled = true → s.nextAnswer (align n A) n = .done v c →
    Memory.wf s.lines = true →
    (∀ w, HitsWay s (align n A) w →
      ∃ t, exec (useWr n A D) s = .next t ∧
        Stored (setOfAddr (align n A)) w (offOf (align n A)) n D s t ∧
        (s.params.writeHitUpdatesLru = true → LruUsed (align n A) w s t) ∧
        (s.params.writeHitUpdatesLru = false → ∀ set, t.lruAt set = s.lruAt set) ∧
        (∀ set w', t.tagAt set w' = s.tagAt set w') ∧ SameControl s t ∧ t.faulted = s.faulted ∧
        BusCallsMade 1 s t ∧
        t.trace = s.trace ++ alignEvents n A ++
          [.busWrite (align n A) n (lowBits n D) (.done v c), .response none (c.getD 0)]) ∧
    (Misses s (align n A) →
      ∃ t, exec (useWr n A D) s = .next t ∧ OnlyBusUsed 1 s t ∧
        t.trace = s.trace ++ alignEvents n A ++
          [.busWrite (align n A) n (lowBits n D) (.done v c), .response none (c.getD 0)])

/-- R293: a cached write whose bus write fails has already stored into the hit way and updated the LRU state;
it raises `BusFault` and does not respond. Without `WRITE_HIT_UPDATES_LRU` no LRU state has changed, and on a miss
nothing of the block has. -/
def Obligations.CachedWriteBusFailureKeepsLine : Prop :=
  ∀ (s : State) (n : Size) (A D : Word),
    s.cfgCacheEnable = true → s.enabled = true → s.nextAnswer (align n A) n = .fatal →
    Memory.wf s.lines = true →
    ∃ t, exec (useWr n A D) s = .next t ∧ t.faulted = some (.busFault (align n A) n) ∧
      (∀ w, HitsWay s (align n A) w → Stored (setOfAddr (align n A)) w (offOf (align n A)) n D s t ∧
        (s.params.writeHitUpdatesLru = true → LruUsed (align n A) w s t)) ∧
      (s.params.writeHitUpdatesLru = false → ∀ set, t.lruAt set = s.lruAt set) ∧
      (Misses s (align n A) → SameArrays s t) ∧
      (∀ set w', t.tagAt set w' = s.tagAt set w') ∧ SameControl s t ∧ BusCallsMade 1 s t ∧
      t.trace = s.trace ++ alignEvents n A ++ [.busWrite (align n A) n (lowBits n D) .fatal]

/-- 95_test_vectors.md S4 on a hit (R149, R143): a value written to a cached line and read back at the same
address and width is the value's low bits, from the line, with no bus access by the read. -/
def Obligations.WriteHitThenReadReturnsValue : Prop :=
  ∀ (s : State) (n : Size) (k : Kind) (A D v : Word) (w : Way) (c : Option Nat),
    s.cfgCacheEnable = true → s.enabled = true → HitsWay s (align n A) w → s.params.coherencyCheck = false →
    s.nextAnswer (align n A) n = .done v c → Memory.wf s.lines = true →
    ∃ t u, exec (useWr n A D) s = .next t ∧ exec (useRd n k A) t = .next u ∧ SameBus t u ∧
      u.trace = t.trace ++ alignEvents n A ++ [.response (some (lowBits n D)) s.params.hitCost]

/-- 95_test_vectors.md S6 (R148, R142): after a refill at an address every address of its line hits the filled
way, and a read of any width there makes no bus access. -/
def Obligations.RefillCompletesLine : Prop :=
  ∀ (s t : State) (n : Size) (k : Kind) (A : Word) (w : Way) (v : Nat → Word) (c : Nat → Option Nat),
    RefillsWay s (align n A) k w → s.params.coherencyCheck = false →
    (∀ i < 4, s.answerAt i (chunkAddr (align n A) i) .long = .done (v i) (c i)) →
    exec (useRd n k A) s = .next t →
    ∀ B, SameLine A B → t.lookup B = some w ∧
      ∀ m k', ∃ u, exec (useRd m k' B) t = .next u ∧ SameBus t u

/-! Pass-through. -/

/-- R190 (THR, IO, UNM): a read is one bus read and a write one bus write of the low bits, at the aligned address
with its region bits, the cost unmodified, a read's value zero-extended; no state of the block changes, whatever the
enable flags. -/
def Obligations.PassThroughGoesToBus : Prop :=
  ∀ (s : State) (n : Size) (k : Kind) (A D v : Word) (c : Option Nat), s.nextAnswer (align n A) n = .done v c →
    (∀ i ∈ passRds n k A, ∃ t, exec i s = .next t ∧ OnlyBusUsed 1 s t ∧
      t.trace = s.trace ++ alignEvents n A ++
        [.busRead (align n A) n (.done v c), .response (some (lowBits n v)) (c.getD 0)]) ∧
    (∀ i ∈ passWrs n A D, ∃ t, exec i s = .next t ∧ OnlyBusUsed 1 s t ∧
      t.trace = s.trace ++ alignEvents n A ++
        [.busWrite (align n A) n (lowBits n D) (.done v c), .response none (c.getD 0)])

/-- R293: a pass-through request, or a Use-region request that is not cached, whose bus call fails raises
`BusFault(addr, n)`, changes nothing else of the block and does not respond. -/
def Obligations.BusFailureFaultsSingleAccess : Prop :=
  ∀ (s : State) (n : Size) (k : Kind) (A D : Word), s.nextAnswer (align n A) n = .fatal →
    (∀ i, i ∈ passRds n k A ∨ (i = useRd n k A ∧ s.cachedEnabled = false) →
      ∃ t, exec i s = .next t ∧ t.faulted = some (.busFault (align n A) n) ∧ SameArrays s t ∧
        SameControl s t ∧ BusCallsMade 1 s t ∧
        t.trace = s.trace ++ alignEvents n A ++ [.busRead (align n A) n .fatal]) ∧
    (∀ i, i ∈ passWrs n A D ∨ (i = useWr n A D ∧ s.cachedEnabled = false) →
      ∃ t, exec i s = .next t ∧ t.faulted = some (.busFault (align n A) n) ∧ SameArrays s t ∧
        SameControl s t ∧ BusCallsMade 1 s t ∧
        t.trace = s.trace ++ alignEvents n A ++ [.busWrite (align n A) n (lowBits n D) .fatal])

/-! Purge. -/

/-- R230, R231: PRG.WR.L clears bit 1 of every tag word of the set that is the formed tag and nothing else: no
other tag, no line byte, no LRU bit, no control register, no bus call; it responds with `ARRAY_COST`. -/
def Obligations.PurgeClearsEveryMatch : Prop :=
  ∀ (s : State) (A D : Word), ∃ t, exec (.prgWrL A D) s = .next t ∧
    (∀ set w, t.tagAt set w =
      if set = setOfAddr A ∧ s.tagAt set w = formTag A then s.tagAt set w &&& 0xFFFFFFFD#32 else s.tagAt set w) ∧
    (∀ set w o, t.lineByte set w o = s.lineByte set w o) ∧ (∀ set, t.lruAt set = s.lruAt set) ∧
    SameControl s t ∧ t.faulted = s.faulted ∧ SameBus s t ∧
    t.trace = s.trace ++ alignEvents .long A ++ [.response none s.params.arrayCost]

/-- R233: after a purge at an address no lookup in its line (bits 28:4) hits, so a cached read there goes to
the bus; every other address looks up as before. -/
def Obligations.PurgedLineMisses : Prop :=
  ∀ (s t : State) (P D : Word), exec (.prgWrL P D) s = .next t →
    (∀ A, SameLine A P → t.lookup A = none) ∧ (∀ A, ¬SameLine A P → t.lookup A = s.lookup A) ∧
    (∀ n k A, SameLine A P → ∃ u es, exec (useRd n k A) t = .next u ∧ u.trace = t.trace ++ es ∧
      0 < es.countP isBusRead)

/-! The array windows. -/

/-- R240, R241: AA.RD.L answers `Tag[s][AA_WAY] | (Lru[s] << 4)` at `ARRAY_COST` and changes nothing. -/
def Obligations.AddressArrayRead : Prop :=
  ∀ (s : State) (k : Kind) (A : Word), ∃ t, exec (.aaRdL k A) s = .next t ∧ OnlyOutput s t ∧
    t.trace = s.trace ++ alignEvents .long A ++
      [.response (some (s.tagAt (setOfAddr A) s.aaWay ||| ((s.lruAt (setOfAddr A)).setWidth 32 <<< 4)))
        s.params.arrayCost]

/-- 43_direct_array.md section 1's own inference, "Result layout": where the tag word's fixed bits are 0, as R33
says and `InvariantKeptByStep` keeps, the answered value's bits 28:10 are TAG, 9:4 the LRU state, 1 is V, and the
rest are 0. -/
def Obligations.AddressArrayReadLayout : Prop :=
  ∀ (s : State) (k : Kind) (A : Word), TagWordClean (s.tagAt (setOfAddr A) s.aaWay) →
    ∃ t v, exec (.aaRdL k A) s = .next t ∧ t.trace.getLast? = some (.response (some v) s.params.arrayCost) ∧
      v.extractLsb' 10 19 = (s.tagAt (setOfAddr A) s.aaWay).extractLsb' 10 19 ∧
      v.extractLsb' 4 6 = s.lruAt (setOfAddr A) ∧ v.getLsbD 1 = (s.tagAt (setOfAddr A) s.aaWay).getLsbD 1 ∧
      v &&& 0xE000000D#32 = 0

/-- R240, R242: AA.WR.L sets the tag of way `AA_WAY` and the LRU state of the set in one step, the tag bits
from the word `AA_WRITE_SOURCE` selects, V and the LRU state from the data operand. -/
def Obligations.AddressArrayWrite : Prop :=
  ∀ (s : State) (A D : Word), ∃ t, exec (.aaWrL A D) s = .next t ∧
    (∀ set w, t.tagAt set w =
      if set = setOfAddr A ∧ w = s.aaWay then
        (if s.params.aaWriteSource = .data then (D &&& 0x1FFFFC00#32) ||| (D &&& 0x00000002#32)
          else (A &&& 0x1FFFFC00#32) ||| (D &&& 0x00000002#32))
      else s.tagAt set w) ∧
    (∀ set, t.lruAt set = if set = setOfAddr A then D.extractLsb' 4 6 else s.lruAt set) ∧
    (∀ set w o, t.lineByte set w o = s.lineByte set w o) ∧ SameControl s t ∧ t.faulted = s.faulted ∧
    SameBus s t ∧ t.trace = s.trace ++ alignEvents .long A ++ [.response none s.params.arrayCost]

/-- R241, R242: with `AA_WRITE_SOURCE = Data` a written composite reads back, less its bits 31:29, 3:2 and 0. -/
def Obligations.AddressArrayReadsBackWrite : Prop :=
  ∀ (s t u : State) (k : Kind) (A B D : Word), s.params.aaWriteSource = .data → setOfAddr B = setOfAddr A →
    exec (.aaWrL A D) s = .next t → exec (.aaRdL k B) t = .next u →
    u.trace.getLast? = some (.response (some (D &&& 0x1FFFFFF2#32)) s.params.arrayCost)

/-- R243 to R246: DA.RD answers the bytes at way `a[11:10]`, set `a[9:4]`, offset `a[3:0]`, most significant
lowest, at `ARRAY_COST`, and changes nothing. -/
def Obligations.DataArrayReads : Prop :=
  ∀ (s : State) (n : Size) (k : Kind) (A : Word), ∃ t v, exec (daRd n k A) s = .next t ∧ OnlyOutput s t ∧
    t.trace = s.trace ++ alignEvents n A ++ [.response (some v) s.params.arrayCost] ∧
    lowBits n v = v ∧
    ∀ b < n.bytes, v.extractLsb' (8 * (n.bytes - 1 - b)) 8 =
      s.lineByte ((align n A).extractLsb' 4 6) ((align n A).extractLsb' 10 2)
        ((align n A).extractLsb' 0 4 + BitVec.ofNat 4 b)

/-- R243, R247 to R249: DA.WR stores the low bytes at way `a[11:10]`, set `a[9:4]`, offset `a[3:0]`, most
significant lowest, responds with `ARRAY_COST`, and changes no tag, LRU bit, control register or bus state. -/
def Obligations.DataArrayWrites : Prop :=
  ∀ (s : State) (n : Size) (A D : Word), Memory.wf s.lines = true →
    ∃ t, exec (daWr n A D) s = .next t ∧
      Stored ((align n A).extractLsb' 4 6) ((align n A).extractLsb' 10 2) ((align n A).extractLsb' 0 4) n D s t ∧
      (∀ set w, t.tagAt set w = s.tagAt set w) ∧ (∀ set, t.lruAt set = s.lruAt set) ∧ SameControl s t ∧
      t.faulted = s.faulted ∧ SameBus s t ∧
      t.trace = s.trace ++ alignEvents n A ++ [.response none s.params.arrayCost]

/-- R77 through the data-array window: after a long write, a byte, word or long read inside those four bytes
answers the big-endian part of the long; a long read answers the long. -/
def Obligations.MixedWidthBigEndian : Prop :=
  ∀ (s t u : State) (n : Size) (k : Kind) (A B D : Word), Memory.wf s.lines = true →
    exec (.daWrL A D) s = .next t → exec (daRd n k B) t = .next u → align .long B = align .long A →
    u.trace.getLast? = some (.response (some (lowBits n
      (D >>> (8 * (4 - n.bytes - ((align n B).extractLsb' 0 2).toNat))))) s.params.arrayCost)

/-! Control. -/

/-- R270, R48: RESET clears every tag, line byte and LRU state and `enabled`, sets the replacement parameters
to their reset values, and leaves the fault, the parameters and the bus alone. -/
def Obligations.ResetClearsBlock : Prop :=
  ∀ s : State, ∃ t, exec .reset s = .next t ∧ (∀ set w, t.tagAt set w = 0) ∧
    (∀ set w o, t.lineByte set w o = 0) ∧ (∀ set, t.lruAt set = 0) ∧ t.enabled = false ∧
    t.replMask = s.params.replMaskReset ∧ t.replBiasData = s.params.replBiasDataReset ∧
    t.replBiasInstr = s.params.replBiasInstrReset ∧ t.params = s.params ∧ t.faulted = s.faulted ∧
    t.cfgCacheEnable = s.cfgCacheEnable ∧ t.aaWay = s.aaWay ∧ t.requests = s.requests ∧ SameBus s t ∧
    t.trace = s.trace ++ [.response none 0]

/-- R48: the state after reset is what RESET makes, from any state with the default parameters, of every
register and array. -/
def Obligations.ResetStateIsResetOutcome : Prop :=
  ∀ s : State, s.params = defaultParams → ∃ t, exec .reset s = .next t ∧ t.tags = State.reset.tags ∧
    t.lines = State.reset.lines ∧ t.lru = State.reset.lru ∧ t.enabled = State.reset.enabled ∧
    t.replMask = State.reset.replMask ∧ t.replBiasData = State.reset.replBiasData ∧
    t.replBiasInstr = State.reset.replBiasInstr

/-- R271, R272: ENABLE and DISABLE write `enabled` and nothing else, and respond with cost 0. -/
def Obligations.EnableDisableOnlyFlag : Prop :=
  ∀ (s : State) (b : Bool), ∃ t, exec (if b then .enable else .disable) s = .next t ∧ t.enabled = b ∧
    SameArrays s t ∧ t.replMask = s.replMask ∧ t.replBiasData = s.replBiasData ∧
    t.replBiasInstr = s.replBiasInstr ∧ t.params = s.params ∧ t.cfgCacheEnable = s.cfgCacheEnable ∧
    t.aaWay = s.aaWay ∧ t.requests = s.requests ∧ t.faulted = s.faulted ∧ SameBus s t ∧
    t.trace = s.trace ++ [.response none 0]

/-- R273: SETREPL sets `repl_mask` to `D[5:0]`, `repl_bias[0]` to `D[9:8]` and `repl_bias[1]` to `D[11:10]`,
ignores the other bits, and changes nothing else. -/
def Obligations.SetReplacementParameters : Prop :=
  ∀ (s : State) (D : Word), ∃ t, exec (.setrepl D) s = .next t ∧
    t.replMask.toNat = D.toNat % 64 ∧ t.replBiasData.toNat = D.toNat / 256 % 4 ∧
    t.replBiasInstr.toNat = D.toNat / 1024 % 4 ∧ SameArrays s t ∧ t.enabled = s.enabled ∧
    t.params = s.params ∧ t.cfgCacheEnable = s.cfgCacheEnable ∧ t.aaWay = s.aaWay ∧
    t.requests = s.requests ∧ t.faulted = s.faulted ∧ SameBus s t ∧ t.trace = s.trace ++ [.response none 0]

/-! The whole machine. -/

/-- Every step keeps the data storage canonical (the model's form, log 9), every tag word's fixed bits 0 (R33) and
the count of bus calls in step with what the block has put out (the model's own fields, log 3, log 8). -/
def Obligations.InvariantKeptByStep : Prop :=
  ∀ s t : State, Inv s → step s = .next t → Inv t

/-- Every tag word's fixed bits are 0 at reset (R33, R48), and so hold the model's own parts of the invariant: the
canonical form of the data storage (log 9), and the count of bus calls, 0 beside an empty trace (log 3, log 8). -/
def Obligations.InvariantAtReset : Prop := Inv State.reset

/-- R44, R46: no command but an address-array write makes two ways of a set hold the same valid tag; a refill
never does. -/
def Obligations.OnlyAddressArrayDuplicatesTags : Prop :=
  ∀ (i : Instr) (s t : State), (∀ A D, i ≠ .aaWrL A D) → NoDuplicateTags s → exec i s = .next t →
    NoDuplicateTags t

/-- R320, R34, 70_reset_and_hazards.md: after RESET no address hits, and an address that misses comes to hit only
by a Use-region read of its line (its refill) or by an address-array write. -/
def Obligations.OnlyRefillOrArrayWriteMakesHits : Prop :=
  (∀ s t : State, exec .reset s = .next t → ∀ a, t.lookup a = none) ∧
  (∀ (i : Instr) (s t : State) (a : Word), exec i s = .next t → s.lookup a = none → t.lookup a ≠ none →
    (∃ A D, i = .aaWrL A D) ∨ (∃ n k A, i = useRd n k A ∧ s.cachedEnabled = true ∧ SameLine a A))

/-- R45, R38, R37: with the tables of R37 and R38, no command but an address-array write takes an LRU state out
of the 24 orders of the four ways, and with `repl_mask = 0x3F` each of these has a victim. -/
def Obligations.OnlyAddressArrayLeavesLruOrder : Prop :=
  ∀ (i : Instr) (s t : State), DefaultTables s.params → (∀ A D, i ≠ .aaWrL A D) →
    (∀ set, s.lruAt set ∈ orderedLru) → exec i s = .next t →
    (∀ set, t.lruAt set ∈ orderedLru) ∧
      (t.replMask = 0x3F#6 → ∀ set k, ∃ w, t.selectVictim set k = some w)

/-- R37: the default `VICTIM_TABLE` yields a way exactly by the four conditions on the bits of its index, and the
four conditions are disjoint. -/
def Obligations.VictimTableByConditions : Prop :=
  ∀ i : LruBits,
    let c₀ := i.extractLsb' 3 3 = 0b111#3
    let c₁ := i.getLsbD 5 = false ∧ i.getLsbD 2 = true ∧ i.getLsbD 1 = true
    let c₂ := i.getLsbD 4 = false ∧ i.getLsbD 2 = false ∧ i.getLsbD 0 = true
    let c₃ := i.getLsbD 3 = false ∧ i.getLsbD 1 = false ∧ i.getLsbD 0 = false
    (defaultVictimTable[i.toNat]'i.isLt =
      if c₀ then some 0 else if c₁ then some 1 else if c₂ then some 2 else if c₃ then some 3 else none) ∧
    ¬(c₀ ∧ c₁) ∧ ¬(c₀ ∧ c₂) ∧ ¬(c₀ ∧ c₃) ∧ ¬(c₁ ∧ c₂) ∧ ¬(c₁ ∧ c₃) ∧ ¬(c₂ ∧ c₃)

/-- R38, R37: with the tables of R37 and R38, after uses of the four ways in any order the victim is the way
used first, the least recently used one. -/
def Obligations.VictimIsLeastRecentlyUsed : Prop :=
  ∀ (s : State) (set : SetIdx) (w₀ w₁ w₂ w₃ : Way), DefaultTables s.params → s.replMask = 0x3F#6 →
    [w₀, w₁, w₂, w₃].Nodup →
    ((((s.touch set w₀).touch set w₁).touch set w₂).touch set w₃).rawVictim set = some w₀

/-- R32, R39, R323: only ENABLE, DISABLE and RESET write `enabled`, only SETREPL and RESET the replacement
parameters, and no command writes the parameters of R11, the sampled inputs or the commands to come. -/
def Obligations.ControlWrittenOnlyByControl : Prop :=
  ∀ (i : Instr) (s t : State), exec i s = .next t →
    t.params = s.params ∧ t.cfgCacheEnable = s.cfgCacheEnable ∧ t.aaWay = s.aaWay ∧
    t.requests = s.requests ∧ (i ≠ .enable → i ≠ .disable → i ≠ .reset → t.enabled = s.enabled) ∧
    ((∀ D, i ≠ .setrepl D) → i ≠ .reset → t.replMask = s.replMask ∧ t.replBiasData = s.replBiasData ∧
      t.replBiasInstr = s.replBiasInstr)

/-- R144, R231, R241, R243, R190: which commands can change the tags, the lines and the LRU states. -/
def Obligations.ArraysWrittenOnlyBy : Prop :=
  ∀ (i : Instr) (s t : State), exec i s = .next t → i ≠ .reset →
    ((∀ n k A, i ≠ useRd n k A) → (∀ A D, i ≠ .prgWrL A D) → (∀ A D, i ≠ .aaWrL A D) →
      ∀ set w, t.tagAt set w = s.tagAt set w) ∧
    ((∀ n k A, i ≠ useRd n k A) → (∀ n A D, i ≠ useWr n A D) → (∀ n A D, i ≠ daWr n A D) →
      ∀ set w o, t.lineByte set w o = s.lineByte set w o) ∧
    ((∀ n k A, i ≠ useRd n k A) → (∀ n A D, i ≠ useWr n A D) → (∀ A D, i ≠ .aaWrL A D) →
      ∀ set, t.lruAt set = s.lruAt set)

/-- R333, R82: a Use-region read makes at most four bus reads, a Use-region write and a pass-through write
exactly one bus write, a pass-through read exactly one bus read, and purge, window and control commands none. -/
def Obligations.BoundedBusTraffic : Prop :=
  ∀ (i : Instr) (s : State), ∃ t es, exec i s = .next t ∧ t.trace = s.trace ++ es ∧
    (∀ n k A, i = useRd n k A → es.countP isBusRead ≤ 4 ∧ es.countP isBusWrite = 0) ∧
    (∀ n A D, i = useWr n A D ∨ i ∈ passWrs n A D → es.countP isBusRead = 0 ∧ es.countP isBusWrite = 1) ∧
    (∀ n k A, i ∈ passRds n k A → es.countP isBusRead = 1 ∧ es.countP isBusWrite = 0) ∧
    ((∀ n k A, i ≠ useRd n k A ∧ i ∉ passRds n k A) → (∀ n A D, i ≠ useWr n A D ∧ i ∉ passWrs n A D) →
      es.countP isBusRead = 0 ∧ es.countP isBusWrite = 0)

/-- R190, 92_eei_decisions.md D30: outside the Use region and the control commands, `enabled` and
`CFG_CACHE_ENABLE` change nothing: two runs that differ only in them go on to differ only in them. -/
def Obligations.EnableFlagsMatterOnlyToUse : Prop :=
  ∀ (i : Instr) (s t : State) (e c : Bool), (∀ n k A, i ≠ useRd n k A) → (∀ n A D, i ≠ useWr n A D) →
    i.target ≠ none → exec i s = .next t → exec i (s.withFlags e c) = .next (t.withFlags e c)

/-- R111, R141, 92_eei_decisions.md D32: the kind of a read matters only to a Use-region read that misses with
`repl_bias[0] ≠ repl_bias[1]`. -/
def Obligations.KindMattersOnlyToVictimBias : Prop :=
  ∀ (s : State) (n : Size) (k k' : Kind) (A : Word),
    (∀ rd ∈ [thrRd, ioRd, unmRd, daRd], exec (rd n k A) s = exec (rd n k' A) s) ∧
    exec (.aaRdL k A) s = exec (.aaRdL k' A) s ∧
    (s.cachedEnabled = false ∨ s.lookup (align n A) ≠ none ∨ victimEntry s (align n A) = none ∨
      s.replBiasData = s.replBiasInstr → exec (useRd n k A) s = exec (useRd n k' A) s)

/-- R90, R303: a step of one processor's cache changes no other processor's. -/
def Obligations.ProcessorsAreIndependent : Prop :=
  ∀ (p q : Nat) (sys : List State), p ≠ q → (stepProcessor p sys)[q]? = sys[q]?
end

