-- ==== Sys2Proof/Laws/State.lean ====
section
/-! SUPPORT. What each update of the state does to each field: one lemma per field and update, so that no later
proof unfolds a record update. -/

namespace Sys2Proof.Machine

/-! `State.emit`. -/

@[simp] theorem State.emit_enabled (s : State) (e : Event) : (s.emit e).enabled = s.enabled := rfl
@[simp] theorem State.emit_tags (s : State) (e : Event) : (s.emit e).tags = s.tags := rfl
@[simp] theorem State.emit_lines (s : State) (e : Event) : (s.emit e).lines = s.lines := rfl
@[simp] theorem State.emit_lru (s : State) (e : Event) : (s.emit e).lru = s.lru := rfl
@[simp] theorem State.emit_replMask (s : State) (e : Event) : (s.emit e).replMask = s.replMask := rfl
@[simp] theorem State.emit_replBiasData (s : State) (e : Event) : (s.emit e).replBiasData = s.replBiasData := rfl
@[simp] theorem State.emit_replBiasInstr (s : State) (e : Event) : (s.emit e).replBiasInstr = s.replBiasInstr := rfl
@[simp] theorem State.emit_faulted (s : State) (e : Event) : (s.emit e).faulted = s.faulted := rfl
@[simp] theorem State.emit_cfgCacheEnable (s : State) (e : Event) : (s.emit e).cfgCacheEnable = s.cfgCacheEnable := rfl
@[simp] theorem State.emit_aaWay (s : State) (e : Event) : (s.emit e).aaWay = s.aaWay := rfl
@[simp] theorem State.emit_params (s : State) (e : Event) : (s.emit e).params = s.params := rfl
@[simp] theorem State.emit_requests (s : State) (e : Event) : (s.emit e).requests = s.requests := rfl
@[simp] theorem State.emit_busAnswers (s : State) (e : Event) : (s.emit e).busAnswers = s.busAnswers := rfl
@[simp] theorem State.emit_busCalls (s : State) (e : Event) : (s.emit e).busCalls = s.busCalls := rfl
@[simp] theorem State.emit_trace (s : State) (e : Event) : (s.emit e).trace = s.trace ++ [e] := rfl

/-! `State.respond`. -/

@[simp] theorem State.respond_enabled (s : State) (v : Option Word) (c : Nat) : (s.respond v c).enabled = s.enabled := rfl
@[simp] theorem State.respond_tags (s : State) (v : Option Word) (c : Nat) : (s.respond v c).tags = s.tags := rfl
@[simp] theorem State.respond_lines (s : State) (v : Option Word) (c : Nat) : (s.respond v c).lines = s.lines := rfl
@[simp] theorem State.respond_lru (s : State) (v : Option Word) (c : Nat) : (s.respond v c).lru = s.lru := rfl
@[simp] theorem State.respond_replMask (s : State) (v : Option Word) (c : Nat) : (s.respond v c).replMask = s.replMask := rfl
@[simp] theorem State.respond_replBiasData (s : State) (v : Option Word) (c : Nat) : (s.respond v c).replBiasData = s.replBiasData := rfl
@[simp] theorem State.respond_replBiasInstr (s : State) (v : Option Word) (c : Nat) : (s.respond v c).replBiasInstr = s.replBiasInstr := rfl
@[simp] theorem State.respond_faulted (s : State) (v : Option Word) (c : Nat) : (s.respond v c).faulted = s.faulted := rfl
@[simp] theorem State.respond_cfgCacheEnable (s : State) (v : Option Word) (c : Nat) : (s.respond v c).cfgCacheEnable = s.cfgCacheEnable := rfl
@[simp] theorem State.respond_aaWay (s : State) (v : Option Word) (c : Nat) : (s.respond v c).aaWay = s.aaWay := rfl
@[simp] theorem State.respond_params (s : State) (v : Option Word) (c : Nat) : (s.respond v c).params = s.params := rfl
@[simp] theorem State.respond_requests (s : State) (v : Option Word) (c : Nat) : (s.respond v c).requests = s.requests := rfl
@[simp] theorem State.respond_busAnswers (s : State) (v : Option Word) (c : Nat) : (s.respond v c).busAnswers = s.busAnswers := rfl
@[simp] theorem State.respond_busCalls (s : State) (v : Option Word) (c : Nat) : (s.respond v c).busCalls = s.busCalls := rfl
@[simp] theorem State.respond_trace (s : State) (v : Option Word) (c : Nat) : (s.respond v c).trace = s.trace ++ [.response v c] := rfl

/-! `State.raise`. -/

@[simp] theorem State.raise_enabled (s : State) (f : Fault) : (s.raise f).enabled = s.enabled := rfl
@[simp] theorem State.raise_tags (s : State) (f : Fault) : (s.raise f).tags = s.tags := rfl
@[simp] theorem State.raise_lines (s : State) (f : Fault) : (s.raise f).lines = s.lines := rfl
@[simp] theorem State.raise_lru (s : State) (f : Fault) : (s.raise f).lru = s.lru := rfl
@[simp] theorem State.raise_replMask (s : State) (f : Fault) : (s.raise f).replMask = s.replMask := rfl
@[simp] theorem State.raise_replBiasData (s : State) (f : Fault) : (s.raise f).replBiasData = s.replBiasData := rfl
@[simp] theorem State.raise_replBiasInstr (s : State) (f : Fault) : (s.raise f).replBiasInstr = s.replBiasInstr := rfl
@[simp] theorem State.raise_faulted (s : State) (f : Fault) : (s.raise f).faulted = some f := rfl
@[simp] theorem State.raise_cfgCacheEnable (s : State) (f : Fault) : (s.raise f).cfgCacheEnable = s.cfgCacheEnable := rfl
@[simp] theorem State.raise_aaWay (s : State) (f : Fault) : (s.raise f).aaWay = s.aaWay := rfl
@[simp] theorem State.raise_params (s : State) (f : Fault) : (s.raise f).params = s.params := rfl
@[simp] theorem State.raise_requests (s : State) (f : Fault) : (s.raise f).requests = s.requests := rfl
@[simp] theorem State.raise_busAnswers (s : State) (f : Fault) : (s.raise f).busAnswers = s.busAnswers := rfl
@[simp] theorem State.raise_busCalls (s : State) (f : Fault) : (s.raise f).busCalls = s.busCalls := rfl
@[simp] theorem State.raise_trace (s : State) (f : Fault) : (s.raise f).trace = s.trace := rfl

/-! `State.countCall`. -/

@[simp] theorem State.countCall_enabled (s : State) : (s.countCall).enabled = s.enabled := rfl
@[simp] theorem State.countCall_tags (s : State) : (s.countCall).tags = s.tags := rfl
@[simp] theorem State.countCall_lines (s : State) : (s.countCall).lines = s.lines := rfl
@[simp] theorem State.countCall_lru (s : State) : (s.countCall).lru = s.lru := rfl
@[simp] theorem State.countCall_replMask (s : State) : (s.countCall).replMask = s.replMask := rfl
@[simp] theorem State.countCall_replBiasData (s : State) : (s.countCall).replBiasData = s.replBiasData := rfl
@[simp] theorem State.countCall_replBiasInstr (s : State) : (s.countCall).replBiasInstr = s.replBiasInstr := rfl
@[simp] theorem State.countCall_faulted (s : State) : (s.countCall).faulted = s.faulted := rfl
@[simp] theorem State.countCall_cfgCacheEnable (s : State) : (s.countCall).cfgCacheEnable = s.cfgCacheEnable := rfl
@[simp] theorem State.countCall_aaWay (s : State) : (s.countCall).aaWay = s.aaWay := rfl
@[simp] theorem State.countCall_params (s : State) : (s.countCall).params = s.params := rfl
@[simp] theorem State.countCall_requests (s : State) : (s.countCall).requests = s.requests := rfl
@[simp] theorem State.countCall_busAnswers (s : State) : (s.countCall).busAnswers = s.busAnswers.tail := rfl
@[simp] theorem State.countCall_busCalls (s : State) : (s.countCall).busCalls = s.busCalls + 1 := rfl
@[simp] theorem State.countCall_trace (s : State) : (s.countCall).trace = s.trace := rfl

/-! `State.setLineByte`. -/

@[simp] theorem State.setLineByte_enabled (s : State) (set : SetIdx) (w : Way) (o : Offset) (b : Byte) : (s.setLineByte set w o b).enabled = s.enabled := rfl
@[simp] theorem State.setLineByte_tags (s : State) (set : SetIdx) (w : Way) (o : Offset) (b : Byte) : (s.setLineByte set w o b).tags = s.tags := rfl
@[simp] theorem State.setLineByte_lines (s : State) (set : SetIdx) (w : Way) (o : Offset) (b : Byte) : (s.setLineByte set w o b).lines = Memory.write s.lines (lineKey set w o) b := rfl
@[simp] theorem State.setLineByte_lru (s : State) (set : SetIdx) (w : Way) (o : Offset) (b : Byte) : (s.setLineByte set w o b).lru = s.lru := rfl
@[simp] theorem State.setLineByte_replMask (s : State) (set : SetIdx) (w : Way) (o : Offset) (b : Byte) : (s.setLineByte set w o b).replMask = s.replMask := rfl
@[simp] theorem State.setLineByte_replBiasData (s : State) (set : SetIdx) (w : Way) (o : Offset) (b : Byte) : (s.setLineByte set w o b).replBiasData = s.replBiasData := rfl
@[simp] theorem State.setLineByte_replBiasInstr (s : State) (set : SetIdx) (w : Way) (o : Offset) (b : Byte) : (s.setLineByte set w o b).replBiasInstr = s.replBiasInstr := rfl
@[simp] theorem State.setLineByte_faulted (s : State) (set : SetIdx) (w : Way) (o : Offset) (b : Byte) : (s.setLineByte set w o b).faulted = s.faulted := rfl
@[simp] theorem State.setLineByte_cfgCacheEnable (s : State) (set : SetIdx) (w : Way) (o : Offset) (b : Byte) : (s.setLineByte set w o b).cfgCacheEnable = s.cfgCacheEnable := rfl
@[simp] theorem State.setLineByte_aaWay (s : State) (set : SetIdx) (w : Way) (o : Offset) (b : Byte) : (s.setLineByte set w o b).aaWay = s.aaWay := rfl
@[simp] theorem State.setLineByte_params (s : State) (set : SetIdx) (w : Way) (o : Offset) (b : Byte) : (s.setLineByte set w o b).params = s.params := rfl
@[simp] theorem State.setLineByte_requests (s : State) (set : SetIdx) (w : Way) (o : Offset) (b : Byte) : (s.setLineByte set w o b).requests = s.requests := rfl
@[simp] theorem State.setLineByte_busAnswers (s : State) (set : SetIdx) (w : Way) (o : Offset) (b : Byte) : (s.setLineByte set w o b).busAnswers = s.busAnswers := rfl
@[simp] theorem State.setLineByte_busCalls (s : State) (set : SetIdx) (w : Way) (o : Offset) (b : Byte) : (s.setLineByte set w o b).busCalls = s.busCalls := rfl
@[simp] theorem State.setLineByte_trace (s : State) (set : SetIdx) (w : Way) (o : Offset) (b : Byte) : (s.setLineByte set w o b).trace = s.trace := rfl

/-! `State.lineWrite`. -/

@[simp] theorem State.lineWrite_enabled (s : State) (set : SetIdx) (w : Way) (o : Offset) (n : Size) (v : Word) : (s.lineWrite set w o n v).enabled = s.enabled := by cases n <;> rfl
@[simp] theorem State.lineWrite_tags (s : State) (set : SetIdx) (w : Way) (o : Offset) (n : Size) (v : Word) : (s.lineWrite set w o n v).tags = s.tags := by cases n <;> rfl
@[simp] theorem State.lineWrite_lru (s : State) (set : SetIdx) (w : Way) (o : Offset) (n : Size) (v : Word) : (s.lineWrite set w o n v).lru = s.lru := by cases n <;> rfl
@[simp] theorem State.lineWrite_replMask (s : State) (set : SetIdx) (w : Way) (o : Offset) (n : Size) (v : Word) : (s.lineWrite set w o n v).replMask = s.replMask := by cases n <;> rfl
@[simp] theorem State.lineWrite_replBiasData (s : State) (set : SetIdx) (w : Way) (o : Offset) (n : Size) (v : Word) : (s.lineWrite set w o n v).replBiasData = s.replBiasData := by cases n <;> rfl
@[simp] theorem State.lineWrite_replBiasInstr (s : State) (set : SetIdx) (w : Way) (o : Offset) (n : Size) (v : Word) : (s.lineWrite set w o n v).replBiasInstr = s.replBiasInstr := by cases n <;> rfl
@[simp] theorem State.lineWrite_faulted (s : State) (set : SetIdx) (w : Way) (o : Offset) (n : Size) (v : Word) : (s.lineWrite set w o n v).faulted = s.faulted := by cases n <;> rfl
@[simp] theorem State.lineWrite_cfgCacheEnable (s : State) (set : SetIdx) (w : Way) (o : Offset) (n : Size) (v : Word) : (s.lineWrite set w o n v).cfgCacheEnable = s.cfgCacheEnable := by cases n <;> rfl
@[simp] theorem State.lineWrite_aaWay (s : State) (set : SetIdx) (w : Way) (o : Offset) (n : Size) (v : Word) : (s.lineWrite set w o n v).aaWay = s.aaWay := by cases n <;> rfl
@[simp] theorem State.lineWrite_params (s : State) (set : SetIdx) (w : Way) (o : Offset) (n : Size) (v : Word) : (s.lineWrite set w o n v).params = s.params := by cases n <;> rfl
@[simp] theorem State.lineWrite_requests (s : State) (set : SetIdx) (w : Way) (o : Offset) (n : Size) (v : Word) : (s.lineWrite set w o n v).requests = s.requests := by cases n <;> rfl
@[simp] theorem State.lineWrite_busAnswers (s : State) (set : SetIdx) (w : Way) (o : Offset) (n : Size) (v : Word) : (s.lineWrite set w o n v).busAnswers = s.busAnswers := by cases n <;> rfl
@[simp] theorem State.lineWrite_busCalls (s : State) (set : SetIdx) (w : Way) (o : Offset) (n : Size) (v : Word) : (s.lineWrite set w o n v).busCalls = s.busCalls := by cases n <;> rfl
@[simp] theorem State.lineWrite_trace (s : State) (set : SetIdx) (w : Way) (o : Offset) (n : Size) (v : Word) : (s.lineWrite set w o n v).trace = s.trace := by cases n <;> rfl

/-! `State.setTag`. -/

@[simp] theorem State.setTag_enabled (s : State) (set : SetIdx) (w : Way) (t : Word) : (s.setTag set w t).enabled = s.enabled := rfl
@[simp] theorem State.setTag_lines (s : State) (set : SetIdx) (w : Way) (t : Word) : (s.setTag set w t).lines = s.lines := rfl
@[simp] theorem State.setTag_lru (s : State) (set : SetIdx) (w : Way) (t : Word) : (s.setTag set w t).lru = s.lru := rfl
@[simp] theorem State.setTag_replMask (s : State) (set : SetIdx) (w : Way) (t : Word) : (s.setTag set w t).replMask = s.replMask := rfl
@[simp] theorem State.setTag_replBiasData (s : State) (set : SetIdx) (w : Way) (t : Word) : (s.setTag set w t).replBiasData = s.replBiasData := rfl
@[simp] theorem State.setTag_replBiasInstr (s : State) (set : SetIdx) (w : Way) (t : Word) : (s.setTag set w t).replBiasInstr = s.replBiasInstr := rfl
@[simp] theorem State.setTag_faulted (s : State) (set : SetIdx) (w : Way) (t : Word) : (s.setTag set w t).faulted = s.faulted := rfl
@[simp] theorem State.setTag_cfgCacheEnable (s : State) (set : SetIdx) (w : Way) (t : Word) : (s.setTag set w t).cfgCacheEnable = s.cfgCacheEnable := rfl
@[simp] theorem State.setTag_aaWay (s : State) (set : SetIdx) (w : Way) (t : Word) : (s.setTag set w t).aaWay = s.aaWay := rfl
@[simp] theorem State.setTag_params (s : State) (set : SetIdx) (w : Way) (t : Word) : (s.setTag set w t).params = s.params := rfl
@[simp] theorem State.setTag_requests (s : State) (set : SetIdx) (w : Way) (t : Word) : (s.setTag set w t).requests = s.requests := rfl
@[simp] theorem State.setTag_busAnswers (s : State) (set : SetIdx) (w : Way) (t : Word) : (s.setTag set w t).busAnswers = s.busAnswers := rfl
@[simp] theorem State.setTag_busCalls (s : State) (set : SetIdx) (w : Way) (t : Word) : (s.setTag set w t).busCalls = s.busCalls := rfl
@[simp] theorem State.setTag_trace (s : State) (set : SetIdx) (w : Way) (t : Word) : (s.setTag set w t).trace = s.trace := rfl

/-! `State.setLru`. -/

@[simp] theorem State.setLru_enabled (s : State) (set : SetIdx) (l : LruBits) : (s.setLru set l).enabled = s.enabled := rfl
@[simp] theorem State.setLru_tags (s : State) (set : SetIdx) (l : LruBits) : (s.setLru set l).tags = s.tags := rfl
@[simp] theorem State.setLru_lines (s : State) (set : SetIdx) (l : LruBits) : (s.setLru set l).lines = s.lines := rfl
@[simp] theorem State.setLru_lru (s : State) (set : SetIdx) (l : LruBits) : (s.setLru set l).lru = s.lru.set set.toNat l set.isLt := rfl
@[simp] theorem State.setLru_replMask (s : State) (set : SetIdx) (l : LruBits) : (s.setLru set l).replMask = s.replMask := rfl
@[simp] theorem State.setLru_replBiasData (s : State) (set : SetIdx) (l : LruBits) : (s.setLru set l).replBiasData = s.replBiasData := rfl
@[simp] theorem State.setLru_replBiasInstr (s : State) (set : SetIdx) (l : LruBits) : (s.setLru set l).replBiasInstr = s.replBiasInstr := rfl
@[simp] theorem State.setLru_faulted (s : State) (set : SetIdx) (l : LruBits) : (s.setLru set l).faulted = s.faulted := rfl
@[simp] theorem State.setLru_cfgCacheEnable (s : State) (set : SetIdx) (l : LruBits) : (s.setLru set l).cfgCacheEnable = s.cfgCacheEnable := rfl
@[simp] theorem State.setLru_aaWay (s : State) (set : SetIdx) (l : LruBits) : (s.setLru set l).aaWay = s.aaWay := rfl
@[simp] theorem State.setLru_params (s : State) (set : SetIdx) (l : LruBits) : (s.setLru set l).params = s.params := rfl
@[simp] theorem State.setLru_requests (s : State) (set : SetIdx) (l : LruBits) : (s.setLru set l).requests = s.requests := rfl
@[simp] theorem State.setLru_busAnswers (s : State) (set : SetIdx) (l : LruBits) : (s.setLru set l).busAnswers = s.busAnswers := rfl
@[simp] theorem State.setLru_busCalls (s : State) (set : SetIdx) (l : LruBits) : (s.setLru set l).busCalls = s.busCalls := rfl
@[simp] theorem State.setLru_trace (s : State) (set : SetIdx) (l : LruBits) : (s.setLru set l).trace = s.trace := rfl

/-! `State.touch`. -/

@[simp] theorem State.touch_enabled (s : State) (set : SetIdx) (w : Way) : (s.touch set w).enabled = s.enabled := rfl
@[simp] theorem State.touch_tags (s : State) (set : SetIdx) (w : Way) : (s.touch set w).tags = s.tags := rfl
@[simp] theorem State.touch_lines (s : State) (set : SetIdx) (w : Way) : (s.touch set w).lines = s.lines := rfl
@[simp] theorem State.touch_lru (s : State) (set : SetIdx) (w : Way) : (s.touch set w).lru = s.lru.set set.toNat (plruUpdate s.params (s.lruAt set) w) set.isLt := rfl
@[simp] theorem State.touch_replMask (s : State) (set : SetIdx) (w : Way) : (s.touch set w).replMask = s.replMask := rfl
@[simp] theorem State.touch_replBiasData (s : State) (set : SetIdx) (w : Way) : (s.touch set w).replBiasData = s.replBiasData := rfl
@[simp] theorem State.touch_replBiasInstr (s : State) (set : SetIdx) (w : Way) : (s.touch set w).replBiasInstr = s.replBiasInstr := rfl
@[simp] theorem State.touch_faulted (s : State) (set : SetIdx) (w : Way) : (s.touch set w).faulted = s.faulted := rfl
@[simp] theorem State.touch_cfgCacheEnable (s : State) (set : SetIdx) (w : Way) : (s.touch set w).cfgCacheEnable = s.cfgCacheEnable := rfl
@[simp] theorem State.touch_aaWay (s : State) (set : SetIdx) (w : Way) : (s.touch set w).aaWay = s.aaWay := rfl
@[simp] theorem State.touch_params (s : State) (set : SetIdx) (w : Way) : (s.touch set w).params = s.params := rfl
@[simp] theorem State.touch_requests (s : State) (set : SetIdx) (w : Way) : (s.touch set w).requests = s.requests := rfl
@[simp] theorem State.touch_busAnswers (s : State) (set : SetIdx) (w : Way) : (s.touch set w).busAnswers = s.busAnswers := rfl
@[simp] theorem State.touch_busCalls (s : State) (set : SetIdx) (w : Way) : (s.touch set w).busCalls = s.busCalls := rfl
@[simp] theorem State.touch_trace (s : State) (set : SetIdx) (w : Way) : (s.touch set w).trace = s.trace := rfl

/-! `State.setEnabled`. -/

@[simp] theorem State.setEnabled_enabled (s : State) (b : Bool) : (s.setEnabled b).enabled = b := rfl
@[simp] theorem State.setEnabled_tags (s : State) (b : Bool) : (s.setEnabled b).tags = s.tags := rfl
@[simp] theorem State.setEnabled_lines (s : State) (b : Bool) : (s.setEnabled b).lines = s.lines := rfl
@[simp] theorem State.setEnabled_lru (s : State) (b : Bool) : (s.setEnabled b).lru = s.lru := rfl
@[simp] theorem State.setEnabled_replMask (s : State) (b : Bool) : (s.setEnabled b).replMask = s.replMask := rfl
@[simp] theorem State.setEnabled_replBiasData (s : State) (b : Bool) : (s.setEnabled b).replBiasData = s.replBiasData := rfl
@[simp] theorem State.setEnabled_replBiasInstr (s : State) (b : Bool) : (s.setEnabled b).replBiasInstr = s.replBiasInstr := rfl
@[simp] theorem State.setEnabled_faulted (s : State) (b : Bool) : (s.setEnabled b).faulted = s.faulted := rfl
@[simp] theorem State.setEnabled_cfgCacheEnable (s : State) (b : Bool) : (s.setEnabled b).cfgCacheEnable = s.cfgCacheEnable := rfl
@[simp] theorem State.setEnabled_aaWay (s : State) (b : Bool) : (s.setEnabled b).aaWay = s.aaWay := rfl
@[simp] theorem State.setEnabled_params (s : State) (b : Bool) : (s.setEnabled b).params = s.params := rfl
@[simp] theorem State.setEnabled_requests (s : State) (b : Bool) : (s.setEnabled b).requests = s.requests := rfl
@[simp] theorem State.setEnabled_busAnswers (s : State) (b : Bool) : (s.setEnabled b).busAnswers = s.busAnswers := rfl
@[simp] theorem State.setEnabled_busCalls (s : State) (b : Bool) : (s.setEnabled b).busCalls = s.busCalls := rfl
@[simp] theorem State.setEnabled_trace (s : State) (b : Bool) : (s.setEnabled b).trace = s.trace := rfl

/-! `State.setRepl`. -/

@[simp] theorem State.setRepl_enabled (s : State) (m : LruBits) (bd bi : Way) : (s.setRepl m bd bi).enabled = s.enabled := rfl
@[simp] theorem State.setRepl_tags (s : State) (m : LruBits) (bd bi : Way) : (s.setRepl m bd bi).tags = s.tags := rfl
@[simp] theorem State.setRepl_lines (s : State) (m : LruBits) (bd bi : Way) : (s.setRepl m bd bi).lines = s.lines := rfl
@[simp] theorem State.setRepl_lru (s : State) (m : LruBits) (bd bi : Way) : (s.setRepl m bd bi).lru = s.lru := rfl
@[simp] theorem State.setRepl_replMask (s : State) (m : LruBits) (bd bi : Way) : (s.setRepl m bd bi).replMask = m := rfl
@[simp] theorem State.setRepl_replBiasData (s : State) (m : LruBits) (bd bi : Way) : (s.setRepl m bd bi).replBiasData = bd := rfl
@[simp] theorem State.setRepl_replBiasInstr (s : State) (m : LruBits) (bd bi : Way) : (s.setRepl m bd bi).replBiasInstr = bi := rfl
@[simp] theorem State.setRepl_faulted (s : State) (m : LruBits) (bd bi : Way) : (s.setRepl m bd bi).faulted = s.faulted := rfl
@[simp] theorem State.setRepl_cfgCacheEnable (s : State) (m : LruBits) (bd bi : Way) : (s.setRepl m bd bi).cfgCacheEnable = s.cfgCacheEnable := rfl
@[simp] theorem State.setRepl_aaWay (s : State) (m : LruBits) (bd bi : Way) : (s.setRepl m bd bi).aaWay = s.aaWay := rfl
@[simp] theorem State.setRepl_params (s : State) (m : LruBits) (bd bi : Way) : (s.setRepl m bd bi).params = s.params := rfl
@[simp] theorem State.setRepl_requests (s : State) (m : LruBits) (bd bi : Way) : (s.setRepl m bd bi).requests = s.requests := rfl
@[simp] theorem State.setRepl_busAnswers (s : State) (m : LruBits) (bd bi : Way) : (s.setRepl m bd bi).busAnswers = s.busAnswers := rfl
@[simp] theorem State.setRepl_busCalls (s : State) (m : LruBits) (bd bi : Way) : (s.setRepl m bd bi).busCalls = s.busCalls := rfl
@[simp] theorem State.setRepl_trace (s : State) (m : LruBits) (bd bi : Way) : (s.setRepl m bd bi).trace = s.trace := rfl

/-! `State.clearArrays`. -/

@[simp] theorem State.clearArrays_enabled (s : State) : (s.clearArrays).enabled = s.enabled := rfl
@[simp] theorem State.clearArrays_tags (s : State) : (s.clearArrays).tags = Vector.replicate 64 (Vector.replicate 4 0) := rfl
@[simp] theorem State.clearArrays_lines (s : State) : (s.clearArrays).lines = [] := rfl
@[simp] theorem State.clearArrays_lru (s : State) : (s.clearArrays).lru = Vector.replicate 64 0 := rfl
@[simp] theorem State.clearArrays_replMask (s : State) : (s.clearArrays).replMask = s.replMask := rfl
@[simp] theorem State.clearArrays_replBiasData (s : State) : (s.clearArrays).replBiasData = s.replBiasData := rfl
@[simp] theorem State.clearArrays_replBiasInstr (s : State) : (s.clearArrays).replBiasInstr = s.replBiasInstr := rfl
@[simp] theorem State.clearArrays_faulted (s : State) : (s.clearArrays).faulted = s.faulted := rfl
@[simp] theorem State.clearArrays_cfgCacheEnable (s : State) : (s.clearArrays).cfgCacheEnable = s.cfgCacheEnable := rfl
@[simp] theorem State.clearArrays_aaWay (s : State) : (s.clearArrays).aaWay = s.aaWay := rfl
@[simp] theorem State.clearArrays_params (s : State) : (s.clearArrays).params = s.params := rfl
@[simp] theorem State.clearArrays_requests (s : State) : (s.clearArrays).requests = s.requests := rfl
@[simp] theorem State.clearArrays_busAnswers (s : State) : (s.clearArrays).busAnswers = s.busAnswers := rfl
@[simp] theorem State.clearArrays_busCalls (s : State) : (s.clearArrays).busCalls = s.busCalls := rfl
@[simp] theorem State.clearArrays_trace (s : State) : (s.clearArrays).trace = s.trace := rfl

/-! `State.take`. -/

@[simp] theorem State.take_enabled (s : State) (r : Request) (rest : List Request) : (s.take r rest).enabled = s.enabled := rfl
@[simp] theorem State.take_tags (s : State) (r : Request) (rest : List Request) : (s.take r rest).tags = s.tags := rfl
@[simp] theorem State.take_lines (s : State) (r : Request) (rest : List Request) : (s.take r rest).lines = s.lines := rfl
@[simp] theorem State.take_lru (s : State) (r : Request) (rest : List Request) : (s.take r rest).lru = s.lru := rfl
@[simp] theorem State.take_replMask (s : State) (r : Request) (rest : List Request) : (s.take r rest).replMask = s.replMask := rfl
@[simp] theorem State.take_replBiasData (s : State) (r : Request) (rest : List Request) : (s.take r rest).replBiasData = s.replBiasData := rfl
@[simp] theorem State.take_replBiasInstr (s : State) (r : Request) (rest : List Request) : (s.take r rest).replBiasInstr = s.replBiasInstr := rfl
@[simp] theorem State.take_faulted (s : State) (r : Request) (rest : List Request) : (s.take r rest).faulted = s.faulted := rfl
@[simp] theorem State.take_cfgCacheEnable (s : State) (r : Request) (rest : List Request) : (s.take r rest).cfgCacheEnable = r.cfgCacheEnable := rfl
@[simp] theorem State.take_aaWay (s : State) (r : Request) (rest : List Request) : (s.take r rest).aaWay = r.aaWay := rfl
@[simp] theorem State.take_params (s : State) (r : Request) (rest : List Request) : (s.take r rest).params = s.params := rfl
@[simp] theorem State.take_requests (s : State) (r : Request) (rest : List Request) : (s.take r rest).requests = rest := rfl
@[simp] theorem State.take_busAnswers (s : State) (r : Request) (rest : List Request) : (s.take r rest).busAnswers = s.busAnswers := rfl
@[simp] theorem State.take_busCalls (s : State) (r : Request) (rest : List Request) : (s.take r rest).busCalls = s.busCalls := rfl
@[simp] theorem State.take_trace (s : State) (r : Request) (rest : List Request) : (s.take r rest).trace = s.trace := rfl

/-! `State.presentNext`. -/

@[simp] theorem State.presentNext_enabled (s : State) (r : Request) : (s.presentNext r).enabled = s.enabled := rfl
@[simp] theorem State.presentNext_tags (s : State) (r : Request) : (s.presentNext r).tags = s.tags := rfl
@[simp] theorem State.presentNext_lines (s : State) (r : Request) : (s.presentNext r).lines = s.lines := rfl
@[simp] theorem State.presentNext_lru (s : State) (r : Request) : (s.presentNext r).lru = s.lru := rfl
@[simp] theorem State.presentNext_replMask (s : State) (r : Request) : (s.presentNext r).replMask = s.replMask := rfl
@[simp] theorem State.presentNext_replBiasData (s : State) (r : Request) : (s.presentNext r).replBiasData = s.replBiasData := rfl
@[simp] theorem State.presentNext_replBiasInstr (s : State) (r : Request) : (s.presentNext r).replBiasInstr = s.replBiasInstr := rfl
@[simp] theorem State.presentNext_faulted (s : State) (r : Request) : (s.presentNext r).faulted = s.faulted := rfl
@[simp] theorem State.presentNext_cfgCacheEnable (s : State) (r : Request) : (s.presentNext r).cfgCacheEnable = s.cfgCacheEnable := rfl
@[simp] theorem State.presentNext_aaWay (s : State) (r : Request) : (s.presentNext r).aaWay = s.aaWay := rfl
@[simp] theorem State.presentNext_params (s : State) (r : Request) : (s.presentNext r).params = s.params := rfl
@[simp] theorem State.presentNext_requests (s : State) (r : Request) : (s.presentNext r).requests = r :: s.requests := rfl
@[simp] theorem State.presentNext_busAnswers (s : State) (r : Request) : (s.presentNext r).busAnswers = s.busAnswers := rfl
@[simp] theorem State.presentNext_busCalls (s : State) (r : Request) : (s.presentNext r).busCalls = s.busCalls := rfl
@[simp] theorem State.presentNext_trace (s : State) (r : Request) : (s.presentNext r).trace = s.trace := rfl

/-! `State.noteAlign`. -/

@[simp] theorem State.noteAlign_enabled (s : State) (n : Size) (a : Word) : (s.noteAlign n a).enabled = s.enabled := by unfold State.noteAlign; split <;> rfl
@[simp] theorem State.noteAlign_tags (s : State) (n : Size) (a : Word) : (s.noteAlign n a).tags = s.tags := by unfold State.noteAlign; split <;> rfl
@[simp] theorem State.noteAlign_lines (s : State) (n : Size) (a : Word) : (s.noteAlign n a).lines = s.lines := by unfold State.noteAlign; split <;> rfl
@[simp] theorem State.noteAlign_lru (s : State) (n : Size) (a : Word) : (s.noteAlign n a).lru = s.lru := by unfold State.noteAlign; split <;> rfl
@[simp] theorem State.noteAlign_replMask (s : State) (n : Size) (a : Word) : (s.noteAlign n a).replMask = s.replMask := by unfold State.noteAlign; split <;> rfl
@[simp] theorem State.noteAlign_replBiasData (s : State) (n : Size) (a : Word) : (s.noteAlign n a).replBiasData = s.replBiasData := by unfold State.noteAlign; split <;> rfl
@[simp] theorem State.noteAlign_replBiasInstr (s : State) (n : Size) (a : Word) : (s.noteAlign n a).replBiasInstr = s.replBiasInstr := by unfold State.noteAlign; split <;> rfl
@[simp] theorem State.noteAlign_faulted (s : State) (n : Size) (a : Word) : (s.noteAlign n a).faulted = s.faulted := by unfold State.noteAlign; split <;> rfl
@[simp] theorem State.noteAlign_cfgCacheEnable (s : State) (n : Size) (a : Word) : (s.noteAlign n a).cfgCacheEnable = s.cfgCacheEnable := by unfold State.noteAlign; split <;> rfl
@[simp] theorem State.noteAlign_aaWay (s : State) (n : Size) (a : Word) : (s.noteAlign n a).aaWay = s.aaWay := by unfold State.noteAlign; split <;> rfl
@[simp] theorem State.noteAlign_params (s : State) (n : Size) (a : Word) : (s.noteAlign n a).params = s.params := by unfold State.noteAlign; split <;> rfl
@[simp] theorem State.noteAlign_requests (s : State) (n : Size) (a : Word) : (s.noteAlign n a).requests = s.requests := by unfold State.noteAlign; split <;> rfl
@[simp] theorem State.noteAlign_busAnswers (s : State) (n : Size) (a : Word) : (s.noteAlign n a).busAnswers = s.busAnswers := by unfold State.noteAlign; split <;> rfl
@[simp] theorem State.noteAlign_busCalls (s : State) (n : Size) (a : Word) : (s.noteAlign n a).busCalls = s.busCalls := by unfold State.noteAlign; split <;> rfl
@[simp] theorem State.noteAlign_trace (s : State) (n : Size) (a : Word) : (s.noteAlign n a).trace = s.trace ++ alignEvents n a := by unfold State.noteAlign alignEvents; split <;> simp

end Sys2Proof.Machine
end

