-- ==== Sys2Proof/Laws/Memory.lean ====
section
/-! SUPPORT. The data storage as cells: a read after a write, the canonical form every write keeps, and that
each line byte has a key of its own. -/

namespace Sys2Proof.Machine

theorem Memory.read_putCell {m : Memory} {k : Nat} (h : Memory.read m k = 0) (b : Byte) (k' : Nat) :
    Memory.read (Memory.putCell k b m) k' = if k' = k then b else Memory.read m k' := by
  unfold Memory.putCell
  split
  · next hb =>
    split
    · next hk => rw [hk, h, hb]
    · rfl
  · simp only [Memory.read, eq_comm]

theorem Memory.wfFrom_mono {m : Memory} {lo lo' : Nat} (h : Memory.wfFrom lo m = true) (hl : lo' ≤ lo) :
    Memory.wfFrom lo' m = true := by
  cases m with
  | nil => rfl
  | cons c rest =>
    simp only [Memory.wfFrom, Bool.and_eq_true, decide_eq_true_eq] at h ⊢
    exact ⟨⟨⟨by omega, h.1.1.2⟩, h.1.2⟩, h.2⟩

theorem Memory.wfFrom_putCell {m : Memory} {lo k : Nat} (h : Memory.wfFrom (k + 1) m = true) (hlo : lo ≤ k)
    (hk : k < 4096) (b : Byte) : Memory.wfFrom lo (Memory.putCell k b m) = true := by
  unfold Memory.putCell
  split
  · exact Memory.wfFrom_mono h (by omega)
  · next hb =>
    simp only [Memory.wfFrom, Bool.and_eq_true, decide_eq_true_eq]
    exact ⟨⟨⟨hlo, hk⟩, hb⟩, h⟩

/-- Below the form's first key every byte is unlisted. -/
theorem Memory.read_eq_zero_of_wfFrom {m : Memory} {lo k : Nat} (h : Memory.wfFrom lo m = true) (hk : k < lo) :
    Memory.read m k = 0 := by
  induction m generalizing lo with
  | nil => rfl
  | cons c rest ih =>
    simp only [Memory.wfFrom, Bool.and_eq_true, decide_eq_true_eq] at h
    have hne : c.1 ≠ k := by omega
    simp only [Memory.read, if_neg hne]
    exact ih h.2 (by omega)

/-- A write keeps the canonical form. -/
theorem Memory.wfFrom_write {m : Memory} {lo k : Nat} (h : Memory.wfFrom lo m = true) (hlo : lo ≤ k)
    (hk : k < 4096) (b : Byte) : Memory.wfFrom lo (Memory.write m k b) = true := by
  induction m generalizing lo with
  | nil => exact Memory.wfFrom_putCell rfl hlo hk b
  | cons c rest ih =>
    have h' := h
    simp only [Memory.wfFrom, Bool.and_eq_true, decide_eq_true_eq] at h'
    obtain ⟨⟨⟨h1, h2⟩, h3⟩, h4⟩ := h'
    simp only [Memory.write]
    split
    · next hlt =>
      refine Memory.wfFrom_putCell ?_ hlo hk b
      simp only [Memory.wfFrom, Bool.and_eq_true, decide_eq_true_eq]
      exact ⟨⟨⟨hlt, h2⟩, h3⟩, h4⟩
    · split
      · next heq => exact Memory.wfFrom_putCell (heq ▸ h4) hlo hk b
      · simp only [Memory.wfFrom, Bool.and_eq_true, decide_eq_true_eq]
        exact ⟨⟨⟨h1, h2⟩, h3⟩, ih h4 (by omega)⟩

/-- A read after a write in canonical form: the byte written at its key, every other byte as before. -/
theorem Memory.read_write_from {m : Memory} {lo : Nat} (h : Memory.wfFrom lo m = true) (k k' : Nat) (b : Byte) :
    Memory.read (Memory.write m k b) k' = if k' = k then b else Memory.read m k' := by
  induction m generalizing lo with
  | nil => exact Memory.read_putCell rfl b k'
  | cons c rest ih =>
    have h' := h
    simp only [Memory.wfFrom, Bool.and_eq_true, decide_eq_true_eq] at h'
    obtain ⟨⟨⟨h1, h2⟩, h3⟩, h4⟩ := h'
    have hz : ∀ i, i ≤ c.1 → Memory.read rest i = 0 := fun i hi =>
      Memory.read_eq_zero_of_wfFrom h4 (by omega)
    simp only [Memory.write]
    split
    · refine Memory.read_putCell ?_ b k'
      have hne : c.1 ≠ k := by omega
      simpa only [Memory.read, if_neg hne] using hz k (by omega)
    · split
      · next heq =>
        rw [Memory.read_putCell (hz k (by omega))]
        by_cases hk : k' = k
        · simp only [hk, if_true]
        · have hne : c.1 ≠ k' := by omega
          simp only [hk, if_false, Memory.read, if_neg hne]
      · simp only [Memory.read, ih h4]
        by_cases hj : c.1 = k'
        · have hne : k' ≠ k := by omega
          simp only [hj, if_true, if_neg hne]
        · simp only [hj, if_false]

theorem Memory.wf_write {m : Memory} {k : Nat} (h : Memory.wf m = true) (hk : k < 4096) (b : Byte) :
    Memory.wf (Memory.write m k b) = true :=
  Memory.wfFrom_write h (Nat.zero_le _) hk b

theorem lineKey_lt (set : SetIdx) (w : Way) (o : Offset) : lineKey set w o < 4096 :=
  (w ++ set ++ o).isLt

theorem lineKey_eq (set : SetIdx) (w : Way) (o : Offset) :
    lineKey set w o = w.toNat * 1024 + set.toNat * 16 + o.toNat := by
  have h1 := set.isLt
  have h3 := o.isLt
  simp only [lineKey, BitVec.toNat_append]
  rw [← Nat.shiftLeft_add_eq_or_of_lt h3, ← Nat.shiftLeft_add_eq_or_of_lt h1]
  simp only [Nat.shiftLeft_eq]
  omega

theorem lineKey_inj {set set' : SetIdx} {w w' : Way} {o o' : Offset} :
    lineKey set w o = lineKey set' w' o' ↔ set = set' ∧ w = w' ∧ o = o' := by
  constructor
  · intro h
    have h1 := set.isLt; have h2 := set'.isLt; have h3 := o.isLt; have h4 := o'.isLt
    rw [lineKey_eq, lineKey_eq] at h
    refine ⟨?_, ?_, ?_⟩ <;> apply BitVec.eq_of_toNat_eq <;> omega
  · rintro ⟨rfl, rfl, rfl⟩; rfl

end Sys2Proof.Machine
end

