-- ==== Sys2Proof/Laws/Arrays.lean ====
section
/-! SUPPORT. What each update of the state does to what the arrays read, one lemma per update and reader, and
the read-after-write laws of the tags, the LRU states and the lines. -/

namespace Sys2Proof.Machine

@[simp] theorem State.emit_tagAt (s : State) (e : Event) (x : SetIdx) (y : Way) : (s.emit e).tagAt x y = s.tagAt x y := rfl
@[simp] theorem State.emit_lruAt (s : State) (e : Event) (x : SetIdx) : (s.emit e).lruAt x = s.lruAt x := rfl
@[simp] theorem State.emit_lineByte (s : State) (e : Event) (x : SetIdx) (y : Way) (z : Offset) : (s.emit e).lineByte x y z = s.lineByte x y z := rfl
@[simp] theorem State.emit_lineRead (s : State) (e : Event) (x : SetIdx) (y : Way) (z : Offset) (m : Size) :
    (s.emit e).lineRead x y z m = s.lineRead x y z m := by cases m <;> simp [State.lineRead]
@[simp] theorem State.emit_replBias (s : State) (e : Event) (x : Kind) : (s.emit e).replBias x = s.replBias x := by cases x <;> simp [State.replBias]
@[simp] theorem State.emit_cachedEnabled (s : State) (e : Event) : (s.emit e).cachedEnabled = s.cachedEnabled := rfl
@[simp] theorem State.emit_selectVictim (s : State) (e : Event) (x : SetIdx) (kd : Kind) : (s.emit e).selectVictim x kd = s.selectVictim x kd := by
  simp [State.selectVictim, State.rawVictim]
@[simp] theorem State.emit_lookup (s : State) (e : Event) (a' : Word) : (s.emit e).lookup a' = s.lookup a' := by
  simp [State.lookup]

@[simp] theorem State.respond_tagAt (s : State) (v : Option Word) (c : Nat) (x : SetIdx) (y : Way) : (s.respond v c).tagAt x y = s.tagAt x y := rfl
@[simp] theorem State.respond_lruAt (s : State) (v : Option Word) (c : Nat) (x : SetIdx) : (s.respond v c).lruAt x = s.lruAt x := rfl
@[simp] theorem State.respond_lineByte (s : State) (v : Option Word) (c : Nat) (x : SetIdx) (y : Way) (z : Offset) : (s.respond v c).lineByte x y z = s.lineByte x y z := rfl
@[simp] theorem State.respond_lineRead (s : State) (v : Option Word) (c : Nat) (x : SetIdx) (y : Way) (z : Offset) (m : Size) :
    (s.respond v c).lineRead x y z m = s.lineRead x y z m := by cases m <;> simp [State.lineRead]
@[simp] theorem State.respond_replBias (s : State) (v : Option Word) (c : Nat) (x : Kind) : (s.respond v c).replBias x = s.replBias x := by cases x <;> simp [State.replBias]
@[simp] theorem State.respond_cachedEnabled (s : State) (v : Option Word) (c : Nat) : (s.respond v c).cachedEnabled = s.cachedEnabled := rfl
@[simp] theorem State.respond_selectVictim (s : State) (v : Option Word) (c : Nat) (x : SetIdx) (kd : Kind) : (s.respond v c).selectVictim x kd = s.selectVictim x kd := by
  simp [State.selectVictim, State.rawVictim]
@[simp] theorem State.respond_lookup (s : State) (v : Option Word) (c : Nat) (a' : Word) : (s.respond v c).lookup a' = s.lookup a' := by
  simp [State.lookup]

@[simp] theorem State.raise_tagAt (s : State) (f : Fault) (x : SetIdx) (y : Way) : (s.raise f).tagAt x y = s.tagAt x y := rfl
@[simp] theorem State.raise_lruAt (s : State) (f : Fault) (x : SetIdx) : (s.raise f).lruAt x = s.lruAt x := rfl
@[simp] theorem State.raise_lineByte (s : State) (f : Fault) (x : SetIdx) (y : Way) (z : Offset) : (s.raise f).lineByte x y z = s.lineByte x y z := rfl
@[simp] theorem State.raise_lineRead (s : State) (f : Fault) (x : SetIdx) (y : Way) (z : Offset) (m : Size) :
    (s.raise f).lineRead x y z m = s.lineRead x y z m := by cases m <;> simp [State.lineRead]
@[simp] theorem State.raise_replBias (s : State) (f : Fault) (x : Kind) : (s.raise f).replBias x = s.replBias x := by cases x <;> simp [State.replBias]
@[simp] theorem State.raise_cachedEnabled (s : State) (f : Fault) : (s.raise f).cachedEnabled = s.cachedEnabled := rfl
@[simp] theorem State.raise_nextAnswer (s : State) (f : Fault) (x : Word) (sz : Size) : (s.raise f).nextAnswer x sz = s.nextAnswer x sz := by
  simp [State.nextAnswer]
@[simp] theorem State.raise_selectVictim (s : State) (f : Fault) (x : SetIdx) (kd : Kind) : (s.raise f).selectVictim x kd = s.selectVictim x kd := by
  simp [State.selectVictim, State.rawVictim]
@[simp] theorem State.raise_lookup (s : State) (f : Fault) (a' : Word) : (s.raise f).lookup a' = s.lookup a' := by
  simp [State.lookup]

@[simp] theorem State.countCall_tagAt (s : State) (x : SetIdx) (y : Way) : (s.countCall).tagAt x y = s.tagAt x y := rfl
@[simp] theorem State.countCall_lruAt (s : State) (x : SetIdx) : (s.countCall).lruAt x = s.lruAt x := rfl
@[simp] theorem State.countCall_lineByte (s : State) (x : SetIdx) (y : Way) (z : Offset) : (s.countCall).lineByte x y z = s.lineByte x y z := rfl
@[simp] theorem State.countCall_lineRead (s : State) (x : SetIdx) (y : Way) (z : Offset) (m : Size) :
    (s.countCall).lineRead x y z m = s.lineRead x y z m := by cases m <;> simp [State.lineRead]
@[simp] theorem State.countCall_replBias (s : State) (x : Kind) : (s.countCall).replBias x = s.replBias x := by cases x <;> simp [State.replBias]
@[simp] theorem State.countCall_cachedEnabled (s : State) : (s.countCall).cachedEnabled = s.cachedEnabled := rfl
@[simp] theorem State.countCall_selectVictim (s : State) (x : SetIdx) (kd : Kind) : (s.countCall).selectVictim x kd = s.selectVictim x kd := by
  simp [State.selectVictim, State.rawVictim]
@[simp] theorem State.countCall_lookup (s : State) (a' : Word) : (s.countCall).lookup a' = s.lookup a' := by
  simp [State.lookup]

@[simp] theorem State.noteAlign_tagAt (s : State) (n : Size) (a : Word) (x : SetIdx) (y : Way) : (s.noteAlign n a).tagAt x y = s.tagAt x y := by unfold State.noteAlign; split <;> rfl
@[simp] theorem State.noteAlign_lruAt (s : State) (n : Size) (a : Word) (x : SetIdx) : (s.noteAlign n a).lruAt x = s.lruAt x := by unfold State.noteAlign; split <;> rfl
@[simp] theorem State.noteAlign_lineByte (s : State) (n : Size) (a : Word) (x : SetIdx) (y : Way) (z : Offset) : (s.noteAlign n a).lineByte x y z = s.lineByte x y z := by unfold State.noteAlign; split <;> rfl
@[simp] theorem State.noteAlign_lineRead (s : State) (n : Size) (a : Word) (x : SetIdx) (y : Way) (z : Offset) (m : Size) :
    (s.noteAlign n a).lineRead x y z m = s.lineRead x y z m := by cases m <;> simp [State.lineRead]
@[simp] theorem State.noteAlign_replBias (s : State) (n : Size) (a : Word) (x : Kind) : (s.noteAlign n a).replBias x = s.replBias x := by cases x <;> simp [State.replBias]
@[simp] theorem State.noteAlign_cachedEnabled (s : State) (n : Size) (a : Word) : (s.noteAlign n a).cachedEnabled = s.cachedEnabled := by unfold State.noteAlign; split <;> rfl
@[simp] theorem State.noteAlign_nextAnswer (s : State) (n : Size) (a : Word) (x : Word) (sz : Size) : (s.noteAlign n a).nextAnswer x sz = s.nextAnswer x sz := by
  simp [State.nextAnswer]
@[simp] theorem State.noteAlign_selectVictim (s : State) (n : Size) (a : Word) (x : SetIdx) (kd : Kind) : (s.noteAlign n a).selectVictim x kd = s.selectVictim x kd := by
  simp [State.selectVictim, State.rawVictim]
@[simp] theorem State.noteAlign_lookup (s : State) (n : Size) (a : Word) (a' : Word) : (s.noteAlign n a).lookup a' = s.lookup a' := by
  simp [State.lookup]

@[simp] theorem State.setLineByte_tagAt (s : State) (set : SetIdx) (w : Way) (o : Offset) (b : Byte) (x : SetIdx) (y : Way) : (s.setLineByte set w o b).tagAt x y = s.tagAt x y := rfl
@[simp] theorem State.setLineByte_lruAt (s : State) (set : SetIdx) (w : Way) (o : Offset) (b : Byte) (x : SetIdx) : (s.setLineByte set w o b).lruAt x = s.lruAt x := rfl
@[simp] theorem State.setLineByte_cachedEnabled (s : State) (set : SetIdx) (w : Way) (o : Offset) (b : Byte) : (s.setLineByte set w o b).cachedEnabled = s.cachedEnabled := rfl
@[simp] theorem State.setLineByte_nextAnswer (s : State) (set : SetIdx) (w : Way) (o : Offset) (b : Byte) (x : Word) (sz : Size) : (s.setLineByte set w o b).nextAnswer x sz = s.nextAnswer x sz := by
  simp [State.nextAnswer]
@[simp] theorem State.setLineByte_lookup (s : State) (set : SetIdx) (w : Way) (o : Offset) (b : Byte) (a' : Word) : (s.setLineByte set w o b).lookup a' = s.lookup a' := by
  simp [State.lookup]

@[simp] theorem State.lineWrite_tagAt (s : State) (set : SetIdx) (w : Way) (o : Offset) (n : Size) (v : Word) (x : SetIdx) (y : Way) : (s.lineWrite set w o n v).tagAt x y = s.tagAt x y := by cases n <;> rfl
@[simp] theorem State.lineWrite_lruAt (s : State) (set : SetIdx) (w : Way) (o : Offset) (n : Size) (v : Word) (x : SetIdx) : (s.lineWrite set w o n v).lruAt x = s.lruAt x := by cases n <;> rfl
@[simp] theorem State.lineWrite_cachedEnabled (s : State) (set : SetIdx) (w : Way) (o : Offset) (n : Size) (v : Word) : (s.lineWrite set w o n v).cachedEnabled = s.cachedEnabled := by cases n <;> rfl
@[simp] theorem State.lineWrite_nextAnswer (s : State) (set : SetIdx) (w : Way) (o : Offset) (n : Size) (v : Word) (x : Word) (sz : Size) : (s.lineWrite set w o n v).nextAnswer x sz = s.nextAnswer x sz := by
  simp [State.nextAnswer]
@[simp] theorem State.lineWrite_lookup (s : State) (set : SetIdx) (w : Way) (o : Offset) (n : Size) (v : Word) (a' : Word) : (s.lineWrite set w o n v).lookup a' = s.lookup a' := by
  simp [State.lookup]

@[simp] theorem State.setTag_lruAt (s : State) (set : SetIdx) (w : Way) (t : Word) (x : SetIdx) : (s.setTag set w t).lruAt x = s.lruAt x := rfl
@[simp] theorem State.setTag_lineByte (s : State) (set : SetIdx) (w : Way) (t : Word) (x : SetIdx) (y : Way) (z : Offset) : (s.setTag set w t).lineByte x y z = s.lineByte x y z := rfl
@[simp] theorem State.setTag_lineRead (s : State) (set : SetIdx) (w : Way) (t : Word) (x : SetIdx) (y : Way) (z : Offset) (m : Size) :
    (s.setTag set w t).lineRead x y z m = s.lineRead x y z m := by cases m <;> simp [State.lineRead]
@[simp] theorem State.setTag_replBias (s : State) (set : SetIdx) (w : Way) (t : Word) (x : Kind) : (s.setTag set w t).replBias x = s.replBias x := by cases x <;> simp [State.replBias]
@[simp] theorem State.setTag_cachedEnabled (s : State) (set : SetIdx) (w : Way) (t : Word) : (s.setTag set w t).cachedEnabled = s.cachedEnabled := rfl
@[simp] theorem State.setTag_nextAnswer (s : State) (set : SetIdx) (w : Way) (t : Word) (x : Word) (sz : Size) : (s.setTag set w t).nextAnswer x sz = s.nextAnswer x sz := by
  simp [State.nextAnswer]
@[simp] theorem State.setTag_selectVictim (s : State) (set : SetIdx) (w : Way) (t : Word) (x : SetIdx) (kd : Kind) : (s.setTag set w t).selectVictim x kd = s.selectVictim x kd := by
  simp [State.selectVictim, State.rawVictim]

@[simp] theorem State.setLru_tagAt (s : State) (set : SetIdx) (l : LruBits) (x : SetIdx) (y : Way) : (s.setLru set l).tagAt x y = s.tagAt x y := rfl
@[simp] theorem State.setLru_lineByte (s : State) (set : SetIdx) (l : LruBits) (x : SetIdx) (y : Way) (z : Offset) : (s.setLru set l).lineByte x y z = s.lineByte x y z := rfl
@[simp] theorem State.setLru_lineRead (s : State) (set : SetIdx) (l : LruBits) (x : SetIdx) (y : Way) (z : Offset) (m : Size) :
    (s.setLru set l).lineRead x y z m = s.lineRead x y z m := by cases m <;> simp [State.lineRead]
@[simp] theorem State.setLru_replBias (s : State) (set : SetIdx) (l : LruBits) (x : Kind) : (s.setLru set l).replBias x = s.replBias x := by cases x <;> simp [State.replBias]
@[simp] theorem State.setLru_cachedEnabled (s : State) (set : SetIdx) (l : LruBits) : (s.setLru set l).cachedEnabled = s.cachedEnabled := rfl
@[simp] theorem State.setLru_nextAnswer (s : State) (set : SetIdx) (l : LruBits) (x : Word) (sz : Size) : (s.setLru set l).nextAnswer x sz = s.nextAnswer x sz := by
  simp [State.nextAnswer]
@[simp] theorem State.setLru_lookup (s : State) (set : SetIdx) (l : LruBits) (a' : Word) : (s.setLru set l).lookup a' = s.lookup a' := by
  simp [State.lookup]

@[simp] theorem State.touch_tagAt (s : State) (set : SetIdx) (w : Way) (x : SetIdx) (y : Way) : (s.touch set w).tagAt x y = s.tagAt x y := rfl
@[simp] theorem State.touch_lineByte (s : State) (set : SetIdx) (w : Way) (x : SetIdx) (y : Way) (z : Offset) : (s.touch set w).lineByte x y z = s.lineByte x y z := rfl
@[simp] theorem State.touch_lineRead (s : State) (set : SetIdx) (w : Way) (x : SetIdx) (y : Way) (z : Offset) (m : Size) :
    (s.touch set w).lineRead x y z m = s.lineRead x y z m := by cases m <;> simp [State.lineRead]
@[simp] theorem State.touch_replBias (s : State) (set : SetIdx) (w : Way) (x : Kind) : (s.touch set w).replBias x = s.replBias x := by cases x <;> simp [State.replBias]
@[simp] theorem State.touch_cachedEnabled (s : State) (set : SetIdx) (w : Way) : (s.touch set w).cachedEnabled = s.cachedEnabled := rfl
@[simp] theorem State.touch_nextAnswer (s : State) (set : SetIdx) (w : Way) (x : Word) (sz : Size) : (s.touch set w).nextAnswer x sz = s.nextAnswer x sz := by
  simp [State.nextAnswer]
@[simp] theorem State.touch_lookup (s : State) (set : SetIdx) (w : Way) (a' : Word) : (s.touch set w).lookup a' = s.lookup a' := by
  simp [State.lookup]

@[simp] theorem State.setEnabled_tagAt (s : State) (b : Bool) (x : SetIdx) (y : Way) : (s.setEnabled b).tagAt x y = s.tagAt x y := rfl
@[simp] theorem State.setEnabled_lruAt (s : State) (b : Bool) (x : SetIdx) : (s.setEnabled b).lruAt x = s.lruAt x := rfl
@[simp] theorem State.setEnabled_lineByte (s : State) (b : Bool) (x : SetIdx) (y : Way) (z : Offset) : (s.setEnabled b).lineByte x y z = s.lineByte x y z := rfl
@[simp] theorem State.setEnabled_lineRead (s : State) (b : Bool) (x : SetIdx) (y : Way) (z : Offset) (m : Size) :
    (s.setEnabled b).lineRead x y z m = s.lineRead x y z m := by cases m <;> simp [State.lineRead]
@[simp] theorem State.setEnabled_replBias (s : State) (b : Bool) (x : Kind) : (s.setEnabled b).replBias x = s.replBias x := by cases x <;> simp [State.replBias]
@[simp] theorem State.setEnabled_nextAnswer (s : State) (b : Bool) (x : Word) (sz : Size) : (s.setEnabled b).nextAnswer x sz = s.nextAnswer x sz := by
  simp [State.nextAnswer]
@[simp] theorem State.setEnabled_selectVictim (s : State) (b : Bool) (x : SetIdx) (kd : Kind) : (s.setEnabled b).selectVictim x kd = s.selectVictim x kd := by
  simp [State.selectVictim, State.rawVictim]
@[simp] theorem State.setEnabled_lookup (s : State) (b : Bool) (a' : Word) : (s.setEnabled b).lookup a' = s.lookup a' := by
  simp [State.lookup]

@[simp] theorem State.setRepl_tagAt (s : State) (m : LruBits) (bd bi : Way) (x : SetIdx) (y : Way) : (s.setRepl m bd bi).tagAt x y = s.tagAt x y := rfl
@[simp] theorem State.setRepl_lruAt (s : State) (m : LruBits) (bd bi : Way) (x : SetIdx) : (s.setRepl m bd bi).lruAt x = s.lruAt x := rfl
@[simp] theorem State.setRepl_lineByte (s : State) (m : LruBits) (bd bi : Way) (x : SetIdx) (y : Way) (z : Offset) : (s.setRepl m bd bi).lineByte x y z = s.lineByte x y z := rfl
@[simp] theorem State.setRepl_lineRead (s : State) (m : LruBits) (bd bi : Way) (x : SetIdx) (y : Way) (z : Offset) (sz : Size) :
    (s.setRepl m bd bi).lineRead x y z sz = s.lineRead x y z sz := by cases sz <;> simp [State.lineRead]
@[simp] theorem State.setRepl_cachedEnabled (s : State) (m : LruBits) (bd bi : Way) : (s.setRepl m bd bi).cachedEnabled = s.cachedEnabled := rfl
@[simp] theorem State.setRepl_nextAnswer (s : State) (m : LruBits) (bd bi : Way) (x : Word) (sz : Size) : (s.setRepl m bd bi).nextAnswer x sz = s.nextAnswer x sz := by
  simp [State.nextAnswer]
@[simp] theorem State.setRepl_lookup (s : State) (m : LruBits) (bd bi : Way) (a' : Word) : (s.setRepl m bd bi).lookup a' = s.lookup a' := by
  simp [State.lookup]

@[simp] theorem State.take_tagAt (s : State) (r : Request) (rest : List Request) (x : SetIdx) (y : Way) : (s.take r rest).tagAt x y = s.tagAt x y := rfl
@[simp] theorem State.take_lruAt (s : State) (r : Request) (rest : List Request) (x : SetIdx) : (s.take r rest).lruAt x = s.lruAt x := rfl
@[simp] theorem State.take_lineByte (s : State) (r : Request) (rest : List Request) (x : SetIdx) (y : Way) (z : Offset) : (s.take r rest).lineByte x y z = s.lineByte x y z := rfl
@[simp] theorem State.take_lineRead (s : State) (r : Request) (rest : List Request) (x : SetIdx) (y : Way) (z : Offset) (m : Size) :
    (s.take r rest).lineRead x y z m = s.lineRead x y z m := by cases m <;> simp [State.lineRead]
@[simp] theorem State.take_replBias (s : State) (r : Request) (rest : List Request) (x : Kind) : (s.take r rest).replBias x = s.replBias x := by cases x <;> simp [State.replBias]
@[simp] theorem State.take_nextAnswer (s : State) (r : Request) (rest : List Request) (x : Word) (sz : Size) : (s.take r rest).nextAnswer x sz = s.nextAnswer x sz := by
  simp [State.nextAnswer]
@[simp] theorem State.take_selectVictim (s : State) (r : Request) (rest : List Request) (x : SetIdx) (kd : Kind) : (s.take r rest).selectVictim x kd = s.selectVictim x kd := by
  simp [State.selectVictim, State.rawVictim]
@[simp] theorem State.take_lookup (s : State) (r : Request) (rest : List Request) (a' : Word) : (s.take r rest).lookup a' = s.lookup a' := by
  simp [State.lookup]

/-! Read after write. -/

theorem toNat_inj_set {x y : SetIdx} : x.toNat = y.toNat ↔ x = y := BitVec.toNat_inj

theorem State.tagAt_setTag (s : State) (set : SetIdx) (w : Way) (t : Word) (set' : SetIdx) (w' : Way) :
    (s.setTag set w t).tagAt set' w' = if set' = set ∧ w' = w then t else s.tagAt set' w' := by
  simp only [State.tagAt, State.setTag, Vector.getElem_set]
  by_cases h : set' = set
  · subst h
    by_cases h' : w' = w
    · subst h'; simp
    · have : w.toNat ≠ w'.toNat := fun e => h' (BitVec.eq_of_toNat_eq e.symm)
      simp [h', this]
  · have : set.toNat ≠ set'.toNat := fun e => h (BitVec.eq_of_toNat_eq e.symm)
    simp [h, this]

theorem State.lruAt_setLru (s : State) (set : SetIdx) (l : LruBits) (set' : SetIdx) :
    (s.setLru set l).lruAt set' = if set' = set then l else s.lruAt set' := by
  simp only [State.lruAt, State.setLru, Vector.getElem_set]
  by_cases h : set' = set
  · subst h; simp
  · have : set.toNat ≠ set'.toNat := fun e => h (BitVec.eq_of_toNat_eq e.symm)
    simp [h, this]

theorem State.lruAt_touch (s : State) (set : SetIdx) (w : Way) (set' : SetIdx) :
    (s.touch set w).lruAt set' = if set' = set then plruUpdate s.params (s.lruAt set) w else s.lruAt set' :=
  s.lruAt_setLru _ _ _

@[simp] theorem State.clearArrays_tagAt (s : State) (set : SetIdx) (w : Way) : s.clearArrays.tagAt set w = 0 := by
  simp [State.tagAt]

@[simp] theorem State.clearArrays_lruAt (s : State) (set : SetIdx) : s.clearArrays.lruAt set = 0 := by
  simp [State.lruAt]

@[simp] theorem State.clearArrays_lineByte (s : State) (set : SetIdx) (w : Way) (o : Offset) :
    s.clearArrays.lineByte set w o = 0 := rfl

theorem State.lineByte_setLineByte {s : State} (h : Memory.wf s.lines = true) (set : SetIdx) (w : Way)
    (o : Offset) (b : Byte) (set' : SetIdx) (w' : Way) (o' : Offset) :
    (s.setLineByte set w o b).lineByte set' w' o' =
      if set' = set ∧ w' = w ∧ o' = o then b else s.lineByte set' w' o' := by
  simp only [State.lineByte, State.setLineByte_lines, Memory.read_write_from h, lineKey_inj]

theorem State.wf_setLineByte {s : State} (h : Memory.wf s.lines = true) (set : SetIdx) (w : Way) (o : Offset)
    (b : Byte) : Memory.wf (s.setLineByte set w o b).lines = true :=
  Memory.wf_write h (lineKey_lt set w o) b

/-- A line write keeps the canonical form. -/
theorem State.wf_lineWrite {s : State} (h : Memory.wf s.lines = true) (set : SetIdx) (w : Way) (o : Offset)
    (n : Size) (v : Word) : Memory.wf (s.lineWrite set w o n v).lines = true := by
  cases n <;> simp only [State.lineWrite] <;> repeat first | exact h | apply State.wf_setLineByte

/-- A distance from a stored offset is one of the first four, or beyond every access. -/
theorem offset_low_or_high (d : Offset) : d = 0#4 ∨ d = 1#4 ∨ d = 2#4 ∨ d = 3#4 ∨ 4 ≤ d.toNat := by
  revert d; decide

/-- A line write stores its bytes big-endian and leaves every other byte (R76). -/
theorem State.stored_lineWrite {s : State} (h : Memory.wf s.lines = true) (set : SetIdx) (w : Way) (o : Offset)
    (n : Size) (v : Word) : Stored set w o n v s (s.lineWrite set w o n v) := by
  intro set' w' o'
  have e : ∀ d : Offset, (o' = o + d) ↔ (o' - o = d) := fun d => by
    constructor
    · rintro rfl; rw [BitVec.add_comm, BitVec.add_sub_cancel]
    · rintro rfl; rw [BitVec.add_comm, BitVec.sub_add_cancel]
  have e0 : (o' = o) ↔ (o' - o = 0#4) := by simpa using e 0#4
  have l1 := State.lineByte_setLineByte h
  have l2 := fun a b c d => State.lineByte_setLineByte (State.wf_setLineByte h a b c d)
  have l3 := fun a b c d e f g i => State.lineByte_setLineByte
    (State.wf_setLineByte (State.wf_setLineByte h a b c d) e f g i)
  have l4 := fun a b c d e f g i j k l m => State.lineByte_setLineByte
    (State.wf_setLineByte (State.wf_setLineByte (State.wf_setLineByte h a b c d) e f g i) j k l m)
  by_cases hsw : set' = set ∧ w' = w
  · obtain ⟨rfl, rfl⟩ := hsw
    rcases offset_low_or_high (o' - o) with hd | hd | hd | hd | hd
    case inr.inr.inr.inr =>
      have hne : ∀ d : Offset, d.toNat < 4 → o' - o ≠ d := fun d hd' e => by rw [e] at hd; omega
      have hn : ¬(o' - o).toNat < n.bytes := Nat.not_lt.mpr (le_trans (by cases n <;> decide) hd)
      rw [if_neg fun hc => hn hc.2.2]
      have n0 := hne 0#4 (by decide)
      have n1 := hne 1 (by decide)
      have n2 := hne 2 (by decide)
      have n3 := hne 3 (by decide)
      cases n <;> simp only [State.lineWrite, l1, l2, l3, l4, true_and, e, e0, n0, n1, n2, n3, if_false]
    all_goals cases n <;> simp only [State.lineWrite, l1, l2, l3, l4, true_and, e, e0, Size.bytes, hd] <;> rfl
  · have hne : ∀ p : Prop, ¬(set' = set ∧ w' = w ∧ p) := fun p hp => hsw ⟨hp.1, hp.2.1⟩
    cases n <;> simp only [State.lineWrite, l1, l2, l3, l4, hne, if_false]

end Sys2Proof.Machine
end

