-- ==== Sys2Proof/Laws/Bus.lean ====
section
/-! SUPPORT. The shared operations over the bus and the lines: what each answers, said once. -/

namespace Sys2Proof.Machine

/-! Line accesses. -/

/-- The bytes a line read is made of, most significant lowest (R76). -/
theorem State.extract_lineRead (s : State) (set : SetIdx) (w : Way) (o : Offset) (n : Size) (b : Nat)
    (hb : b < n.bytes) :
    (s.lineRead set w o n).extractLsb' (8 * (n.bytes - 1 - b)) 8 = s.lineByte set w (o + BitVec.ofNat 4 b) := by
  cases n <;> simp only [Size.bytes] at hb ⊢ <;> interval_cases b <;>
    simp only [State.lineRead, BitVec.ofNat_eq_ofNat, BitVec.add_zero] <;>
    (apply BitVec.eq_of_getLsbD_eq; intro i hi
     simp only [BitVec.getLsbD_extractLsb', BitVec.getLsbD_setWidth, BitVec.getLsbD_append, hi]
     interval_cases i <;> simp)

/-- A line read has no bit beyond its size. -/
theorem State.lowBits_lineRead (s : State) (set : SetIdx) (w : Way) (o : Offset) (n : Size) :
    lowBits n (s.lineRead set w o n) = s.lineRead set w o n := by
  cases n <;> simp only [lowBits, State.lineRead]
  · apply BitVec.eq_of_getLsbD_eq; intro i hi
    simp only [BitVec.getLsbD_and, BitVec.getLsbD_setWidth]
    interval_cases i <;> simp
  · apply BitVec.eq_of_getLsbD_eq; intro i hi
    simp only [BitVec.getLsbD_and, BitVec.getLsbD_setWidth]
    interval_cases i <;> simp

/-- A line read is decided by the bytes it reads. -/
theorem State.lineRead_congr {s t : State} {set set' : SetIdx} {w w' : Way} {o o' : Offset} {n : Size}
    (h : ∀ b < n.bytes, s.lineByte set w (o + BitVec.ofNat 4 b) = t.lineByte set' w' (o' + BitVec.ofNat 4 b)) :
    s.lineRead set w o n = t.lineRead set' w' o' n := by
  cases n <;> simp only [Size.bytes] at h <;> simp only [State.lineRead]
  · have h0 := h 0 (by decide); simp at h0; rw [h0]
  · have h0 := h 0 (by decide); have h1 := h 1 (by decide); simp at h0 h1
    simp [h0, h1]
  · have h0 := h 0 (by decide); have h1 := h 1 (by decide); have h2 := h 2 (by decide); have h3 := h 3 (by decide)
    simp at h0 h1 h2 h3
    simp [h0, h1, h2, h3]

/-- The low bits of a value are its bytes. -/
theorem lowBits_eq_of_bytes {n : Size} {x y : Word}
    (h : ∀ b < n.bytes, x.extractLsb' (8 * (n.bytes - 1 - b)) 8 = y.extractLsb' (8 * (n.bytes - 1 - b)) 8) :
    lowBits n x = lowBits n y := by
  have key : ∀ i < 8 * n.bytes, x.getLsbD i = y.getLsbD i := by
    intro i hi
    have hb := h (n.bytes - 1 - i / 8) (by omega)
    have := congrArg (fun v => v.getLsbD (i % 8)) hb
    have hm : i % 8 < 8 := Nat.mod_lt _ (by decide)
    simp only [BitVec.getLsbD_extractLsb', hm, decide_true, Bool.true_and] at this
    rwa [show 8 * (n.bytes - 1 - (n.bytes - 1 - i / 8)) + i % 8 = i by omega] at this
  apply BitVec.eq_of_getLsbD_eq
  intro i hi
  cases n <;> simp only [Size.bytes, lowBits, BitVec.getLsbD_and] at key ⊢
  · by_cases hi' : i < 8
    · rw [key i (by omega)]
    · have : (0x000000FF#32).getLsbD i = false := by interval_cases i <;> rfl
      simp [this]
  · by_cases hi' : i < 16
    · rw [key i (by omega)]
    · have : (0x0000FFFF#32).getLsbD i = false := by interval_cases i <;> rfl
      simp [this]
  · exact key i (by omega)

/-- What was stored at a place reads back there (R76, R77). -/
theorem lineRead_of_stored {s t : State} {set : SetIdx} {w : Way} {o : Offset} {n : Size} {v : Word}
    (h : Stored set w o n v s t) : t.lineRead set w o n = lowBits n v := by
  rw [← State.lowBits_lineRead]
  refine lowBits_eq_of_bytes fun b hb => ?_
  have hb4 : b < 16 := lt_of_lt_of_le hb (by cases n <;> decide)
  have e : (o + BitVec.ofNat 4 b - o).toNat = b := by
    rw [BitVec.add_comm, BitVec.add_sub_cancel]; simp; omega
  rw [State.extract_lineRead _ _ _ _ _ _ hb, h set w (o + BitVec.ofNat 4 b), e]
  simp [hb]

/-! Bus calls. -/

/-- A bus call puts out one event, draws one answer, and where the bus fails it raises `BusFault`; nothing else
changes (R72, R293). -/
theorem State.memRead_eq (s : State) (a : Word) (n : Size) :
    s.memRead a n = match s.nextAnswer a n with
      | .done v c => (some (lowBits n v, c.getD 0), s.countCall.emit (.busRead a n (.done v c)))
      | .fatal => (none, (s.countCall.emit (.busRead a n .fatal)).raise (.busFault a n)) := by
  unfold State.memRead
  cases h : s.nextAnswer a n <;> simp

theorem State.busRead_done {s : State} {a : Word} {n : Size} {v : Word} {c : Option Nat}
    (h : s.nextAnswer a n = .done v c) :
    s.busRead a n = (s.countCall.emit (.busRead a n (.done v c))).respond (some (lowBits n v)) (c.getD 0) := by
  simp [State.busRead, State.memRead_eq, h]

theorem State.busRead_fatal {s : State} {a : Word} {n : Size} (h : s.nextAnswer a n = .fatal) :
    s.busRead a n = (s.countCall.emit (.busRead a n .fatal)).raise (.busFault a n) := by
  simp [State.busRead, State.memRead_eq, h]

theorem State.busWrite_done {s : State} {a : Word} {n : Size} {d v : Word} {c : Option Nat}
    (h : s.nextAnswer a n = .done v c) :
    s.busWrite a n d =
      (s.countCall.emit (.busWrite a n (lowBits n d) (.done v c))).respond none (c.getD 0) := by
  simp [State.busWrite, State.memWrite, h]

theorem State.busWrite_fatal {s : State} {a : Word} {n : Size} {d : Word} (h : s.nextAnswer a n = .fatal) :
    s.busWrite a n d = (s.countCall.emit (.busWrite a n (lowBits n d) .fatal)).raise (.busFault a n) := by
  simp [State.busWrite, State.memWrite, h]

/-- One bus read answered to the requester does one of two things. -/
theorem State.busRead_cases (s : State) (a : Word) (n : Size) :
    (∃ v c, s.nextAnswer a n = .done v c ∧ s.busRead a n =
      (s.countCall.emit (.busRead a n (.done v c))).respond (some (lowBits n v)) (c.getD 0)) ∨
    (s.nextAnswer a n = .fatal ∧ s.busRead a n =
      (s.countCall.emit (.busRead a n .fatal)).raise (.busFault a n)) := by
  cases h : s.nextAnswer a n with
  | done v c => exact .inl ⟨v, c, rfl, State.busRead_done h⟩
  | fatal => exact .inr ⟨rfl, State.busRead_fatal h⟩

/-- One bus write does one of two things. -/
theorem State.busWrite_cases (s : State) (a : Word) (n : Size) (d : Word) :
    (∃ v c, s.nextAnswer a n = .done v c ∧ s.busWrite a n d =
      (s.countCall.emit (.busWrite a n (lowBits n d) (.done v c))).respond none (c.getD 0)) ∨
    (s.nextAnswer a n = .fatal ∧ s.busWrite a n d =
      (s.countCall.emit (.busWrite a n (lowBits n d) .fatal)).raise (.busFault a n)) := by
  cases h : s.nextAnswer a n with
  | done v c => exact .inl ⟨v, c, rfl, State.busWrite_done h⟩
  | fatal => exact .inr ⟨rfl, State.busWrite_fatal h⟩

theorem State.nextAnswer_eq_answerAt (s : State) (a : Word) (n : Size) : s.nextAnswer a n = s.answerAt 0 a n := by
  unfold State.nextAnswer State.answerAt
  cases s.busAnswers <;> rfl

theorem State.answerAt_countCall (s : State) (i : Nat) (a : Word) (n : Size) :
    s.countCall.answerAt i a n = s.answerAt (i + 1) a n := by
  simp only [State.answerAt, State.countCall_busAnswers, State.countCall_busCalls, List.getElem?_tail]
  rw [show s.busCalls + 1 + i = s.busCalls + (i + 1) by omega]

/-- The answers to come depend only on the listed answers and the counter. -/
theorem State.answerAt_congr {s t : State} (ha : t.busAnswers = s.busAnswers) (hc : t.busCalls = s.busCalls)
    (i : Nat) (a : Word) (n : Size) : t.answerAt i a n = s.answerAt i a n := by
  simp only [State.answerAt, ha, hc]

end Sys2Proof.Machine
end

