-- ==== Sys2Proof/Laws/UseAccess.lean ====
section
/-! SUPPORT. The lookup and the line-fill sequencer: what they answer, said once. -/

namespace Sys2Proof.Machine

/-! The lookup (R142). -/

theorem way_cases (w : Way) : w = 0#2 ∨ w = 1#2 ∨ w = 2#2 ∨ w = 3#2 := by revert w; decide

theorem State.lookup_eq_none {s : State} {a : Word} : s.lookup a = none ↔ Misses s a := by
  simp only [State.lookup, List.find?_eq_none, Misses]
  constructor
  · intro h w
    have := h w (by rcases way_cases w with rfl | rfl | rfl | rfl <;> decide)
    simpa using this
  · intro h w _
    simpa using h w

/-- The lookup written as the four comparisons of R142. -/
theorem State.lookup_eq_ite (s : State) (a : Word) :
    s.lookup a = if s.tagAt (setOfAddr a) 3#2 = formTag a then some 3#2
      else if s.tagAt (setOfAddr a) 2#2 = formTag a then some 2#2
      else if s.tagAt (setOfAddr a) 1#2 = formTag a then some 1#2
      else if s.tagAt (setOfAddr a) 0#2 = formTag a then some 0#2 else none := by
  simp only [State.lookup, List.find?_cons, List.find?_nil]
  repeat' split
  all_goals simp_all

theorem State.lookup_eq_some {s : State} {a : Word} {w : Way} : s.lookup a = some w ↔ HitsWay s a w := by
  have hall : ∀ p : Way → Prop, (∀ w', p w') ↔ p 0#2 ∧ p 1#2 ∧ p 2#2 ∧ p 3#2 := fun p =>
    ⟨fun h => ⟨h _, h _, h _, h _⟩, fun h w' => by rcases way_cases w' with rfl | rfl | rfl | rfl <;> tauto⟩
  rw [State.lookup_eq_ite, HitsWay, hall]
  by_cases h3 : s.tagAt (setOfAddr a) 3#2 = formTag a <;> by_cases h2 : s.tagAt (setOfAddr a) 2#2 = formTag a <;>
    by_cases h1 : s.tagAt (setOfAddr a) 1#2 = formTag a <;> by_cases h0 : s.tagAt (setOfAddr a) 0#2 = formTag a <;>
    rcases way_cases w with rfl | rfl | rfl | rfl <;> simp [h0, h1, h2, h3]

theorem State.selectVictim_eq (s : State) (a : Word) (k : Kind) :
    s.selectVictim (setOfAddr a) k = (victimEntry s a).map (· ||| s.replBias k) := rfl

/-! The chunk loop (R148). -/

/-- The offsets are `chunkOff a 0` to `chunkOff a 3`. -/
theorem chunkOffsets_eq (a : Word) :
    chunkOffsets (offOf a) = [chunkOff a 0, chunkOff a 1, chunkOff a 2, chunkOff a 3] := by
  simp only [chunkOff]
  generalize offOf a = o
  revert o; decide

theorem chunkOffsets_drop (a : Word) {j : Nat} (hj : j < 4) :
    (chunkOffsets (offOf a)).drop j = chunkOff a j :: (chunkOffsets (offOf a)).drop (j + 1) := by
  rw [chunkOffsets_eq]; interval_cases j <;> rfl

/-- Bytes of two chunks are apart unless it is one chunk. -/
theorem chunkOff_sub (a : Word) {i j b : Nat} (hi : i < 4) (hj : j < 4) (hb : b < 4) :
    (chunkOff a i + BitVec.ofNat 4 b - chunkOff a j).toNat < 4 ↔ i = j := by
  simp only [chunkOff]
  generalize offOf a = o
  interval_cases i <;> interval_cases j <;> interval_cases b <;> revert o <;> decide

theorem chunkOff_sub_self (a : Word) {i b : Nat} (hb : b < 4) :
    (chunkOff a i + BitVec.ofNat 4 b - chunkOff a i).toNat = b := by
  rw [BitVec.add_comm, BitVec.add_sub_cancel]
  simp only [BitVec.toNat_ofNat]
  omega

/-- Every offset of a line lies in one of its chunks. -/
theorem chunkOff_cover (a : Word) (o : Offset) : ∃ i < 4, ∃ b < 4, o = chunkOff a i + BitVec.ofNat 4 b := by
  simp only [chunkOff]
  generalize offOf a = p
  revert o p; decide

/-- Storing one more chunk. -/
theorem ChunksStored.succ {a : Word} {w : Way} {j : Nat} {v : Nat → Word} {s t t' : State}
    (h : ChunksStored a w j v s t) (hj : j < 4)
    (ht : Stored (setOfAddr a) w (chunkOff a j) .long (v j) t t') : ChunksStored a w (j + 1) v s t' where
  filled i hi b hb := by
    rw [ht]
    by_cases hij : i = j
    · subst hij
      rw [if_pos ⟨rfl, rfl, by rw [chunkOff_sub_self a hb]; exact hb⟩, chunkOff_sub_self a hb]; rfl
    · rw [if_neg fun hc => hij ((chunkOff_sub a (by omega) hj hb).mp hc.2.2)]
      exact h.filled i (by omega) b hb
  kept i hi hij b hb := by
    rw [ht, if_neg fun hc => (by omega : i ≠ j) ((chunkOff_sub a hi hj hb).mp hc.2.2)]
    exact h.kept i hi (by omega) b hb
  others set w' o hne := by
    rw [ht, if_neg fun hc => hne ⟨hc.1, hc.2.1⟩]
    exact h.others set w' o hne

/-- What the chunk loop has done after `j` chunks. -/
structure ChunksRead (a : Word) (w : Way) (j : Nat) (v : Nat → Word) (c : Nat → Option Nat) (s t : State) :
    Prop where
  tag : ∀ set w', t.tagAt set w' = s.tagAt set w'
  lru : ∀ set, t.lruAt set = s.lruAt set
  control : SameControl s t
  faulted : t.faulted = s.faulted
  bus : BusCallsMade j s t
  trace : t.trace = s.trace ++ chunkReads a j v c
  lines : Memory.wf s.lines = true → Memory.wf t.lines = true ∧ ChunksStored a w j v s t

/-- The costs of the first `j` chunks. -/
def chunkCosts (j : Nat) (c : Nat → Option Nat) : Nat := ((List.range j).map fun i => (c i).getD 0).sum

/-- The loop, up to the first `j` chunks that the bus answers. -/
theorem fillChunks_prefix (a : Word) (w : Way) (v : Nat → Word) (c : Nat → Option Nat) (s : State) (j : Nat)
    (hj : j ≤ 4) (h : ∀ i < j, s.answerAt i (chunkAddr a i) .long = .done (v i) (c i)) :
    ∃ t, ChunksRead a w j v c s t ∧
      fillChunks (lineBase a) (setOfAddr a) w (chunkOffsets (offOf a)) 0 s =
        fillChunks (lineBase a) (setOfAddr a) w ((chunkOffsets (offOf a)).drop j) (chunkCosts j c) t := by
  induction j with
  | zero =>
    refine ⟨s, ⟨fun _ _ => rfl, fun _ => rfl, ⟨rfl, rfl, rfl, rfl, rfl, rfl, rfl, rfl⟩, rfl, ⟨rfl, rfl⟩,
      by simp [chunkReads], fun hw => ⟨hw, ⟨fun _ hi => absurd hi (by omega), fun _ _ _ _ _ => rfl,
        fun _ _ _ _ => rfl⟩⟩⟩, rfl⟩
  | succ j ih =>
    obtain ⟨t, ht, he⟩ := ih (by omega) fun i hi => h i (by omega)
    have hans : t.nextAnswer (chunkAddr a j) .long = .done (v j) (c j) := by
      rw [State.nextAnswer_eq_answerAt, ← h j (by omega)]
      simp only [State.answerAt, ht.bus.busAnswers, ht.bus.busCalls, List.getElem?_drop, Nat.add_zero]
    let t₁ := t.countCall.emit (.busRead (chunkAddr a j) .long (.done (v j) (c j)))
    refine ⟨t₁.lineWrite (setOfAddr a) w (chunkOff a j) .long (v j), ⟨?_, ?_, ?_, ?_, ?_, ?_, ?_⟩, ?_⟩
    · intro set w'; simp [t₁, ht.tag]
    · intro set; simp [t₁, ht.lru]
    · have hc := ht.control
      constructor <;> simp [t₁, hc.enabled, hc.replMask, hc.replBiasData, hc.replBiasInstr, hc.params,
        hc.cfgCacheEnable, hc.aaWay, hc.requests]
    · simp [t₁, ht.faulted]
    · constructor
      · simp [t₁, ht.bus.busAnswers, List.tail_drop]
      · simp [t₁, ht.bus.busCalls]; omega
    · simp [t₁, ht.trace, chunkReads, List.range_succ]
    · intro hw
      obtain ⟨hwt, hst⟩ := ht.lines hw
      have hwt₁ : Memory.wf t₁.lines = true := by simpa [t₁] using hwt
      refine ⟨State.wf_lineWrite hwt₁ _ _ _ _ _, hst.succ (by omega) ?_⟩
      have := State.stored_lineWrite hwt₁ (setOfAddr a) w (chunkOff a j) .long (v j)
      intro set' w' o'
      rw [this]; simp [t₁]
    · rw [he, chunkOffsets_drop a (by omega : j < 4)]
      have hadr : lineBase a + (chunkOff a j).setWidth 32 = chunkAddr a j := rfl
      simp only [fillChunks, hadr, State.memRead_eq, hans, lowBits]
      simp [t₁, chunkCosts, List.range_succ]

/-- All four chunks answered. -/
theorem fillChunks_done (a : Word) (w : Way) (v : Nat → Word) (c : Nat → Option Nat) (s : State)
    (h : ∀ i < 4, s.answerAt i (chunkAddr a i) .long = .done (v i) (c i)) :
    ∃ t, ChunksRead a w 4 v c s t ∧
      fillChunks (lineBase a) (setOfAddr a) w (chunkOffsets (offOf a)) 0 s =
        (some ((c 0).getD 0 + (c 1).getD 0 + (c 2).getD 0 + (c 3).getD 0), t) := by
  obtain ⟨t, ht, he⟩ := fillChunks_prefix a w v c s 4 (le_refl _) h
  refine ⟨t, ht, ?_⟩
  rw [he, chunkOffsets_eq]
  simp [fillChunks, chunkCosts, List.range_succ]
  omega

/-- The bus fails chunk `j`. -/
theorem fillChunks_fatal (a : Word) (w : Way) (v : Nat → Word) (c : Nat → Option Nat) (s : State) (j : Nat)
    (hj : j < 4) (h : ∀ i < j, s.answerAt i (chunkAddr a i) .long = .done (v i) (c i))
    (hf : s.answerAt j (chunkAddr a j) .long = .fatal) :
    ∃ t, ChunksRead a w j v c s t ∧
      fillChunks (lineBase a) (setOfAddr a) w (chunkOffsets (offOf a)) 0 s =
        (none, (t.countCall.emit (.busRead (chunkAddr a j) .long .fatal)).raise
          (.busFault (chunkAddr a j) .long)) := by
  obtain ⟨t, ht, he⟩ := fillChunks_prefix a w v c s j (by omega) h
  have hans : t.nextAnswer (chunkAddr a j) .long = .fatal := by
    rw [State.nextAnswer_eq_answerAt, ← hf]
    simp only [State.answerAt, ht.bus.busAnswers, ht.bus.busCalls, List.getElem?_drop, Nat.add_zero]
  refine ⟨t, ht, ?_⟩
  have hadr : lineBase a + (chunkOff a j).setWidth 32 = chunkAddr a j := rfl
  rw [he, chunkOffsets_drop a hj]
  simp [fillChunks, hadr, State.memRead_eq, hans]

/-- The chunk loop ends in one of two ways, whatever the bus answers: all four chunks are answered, or the
bus fails one of them. -/
theorem fillChunks_cases (a : Word) (w : Way) (s : State) :
    (∃ v c t, (∀ i < 4, s.answerAt i (chunkAddr a i) .long = .done (v i) (c i)) ∧ ChunksRead a w 4 v c s t ∧
      fillChunks (lineBase a) (setOfAddr a) w (chunkOffsets (offOf a)) 0 s =
        (some ((c 0).getD 0 + (c 1).getD 0 + (c 2).getD 0 + (c 3).getD 0), t)) ∨
    (∃ j v c t, j < 4 ∧ s.answerAt j (chunkAddr a j) .long = .fatal ∧ ChunksRead a w j v c s t ∧
      fillChunks (lineBase a) (setOfAddr a) w (chunkOffsets (offOf a)) 0 s =
        (none, (t.countCall.emit (.busRead (chunkAddr a j) .long .fatal)).raise
          (.busFault (chunkAddr a j) .long))) := by
  let v : Nat → Word := fun i => match s.answerAt i (chunkAddr a i) .long with
    | .done v _ => v
    | .fatal => 0
  let c : Nat → Option Nat := fun i => match s.answerAt i (chunkAddr a i) .long with
    | .done _ c => c
    | .fatal => none
  have hvc : ∀ i, s.answerAt i (chunkAddr a i) .long ≠ .fatal →
      s.answerAt i (chunkAddr a i) .long = .done (v i) (c i) := by
    intro i hi
    simp only [v, c]
    cases h : s.answerAt i (chunkAddr a i) .long with
    | done v c => rfl
    | fatal => exact absurd h hi
  by_cases hall : ∀ i < 4, s.answerAt i (chunkAddr a i) .long ≠ .fatal
  · obtain ⟨t, ht, he⟩ := fillChunks_done a w v c s fun i hi => hvc i (hall i hi)
    exact .inl ⟨v, c, t, fun i hi => hvc i (hall i hi), ht, he⟩
  · have hex : ∃ j, j < 4 ∧ s.answerAt j (chunkAddr a j) .long = .fatal := by
      by_contra hne
      exact hall fun i hi hf => hne ⟨i, hi, hf⟩
    let j := Nat.find hex
    obtain ⟨hj, hf⟩ := Nat.find_spec hex
    have hlt : ∀ i < j, s.answerAt i (chunkAddr a i) .long = .done (v i) (c i) := fun i hi =>
      hvc i fun hfi => Nat.find_min hex hi ⟨lt_trans hi hj, hfi⟩
    obtain ⟨t, ht, he⟩ := fillChunks_fatal a w v c s j hj hlt hf
    exact .inr ⟨j, v, c, t, hj, hf, ht, he⟩

end Sys2Proof.Machine
end

