-- ==== Sys2Proof/Laws/Commands.lean ====
section
/-! SUPPORT. The commands of each family as one operation over the access size, and what the operations they
share answer: the read hit, the refill, the write hit, the purge. -/

namespace Sys2Proof.Machine

/-! One equation per family. -/

theorem exec_useRd (n : Size) (k : Kind) (a : Word) (s : State) : exec (useRd n k a) s = .next (s.useRead n k a) := by
  cases n <;> rfl

theorem exec_useWr (n : Size) (a d : Word) (s : State) : exec (useWr n a d) s = .next (s.useWrite n a d) := by
  cases n <;> rfl

theorem exec_thrRd (n : Size) (k : Kind) (a : Word) (s : State) : exec (thrRd n k a) s = .next (s.passRead n a) := by
  cases n <;> rfl

theorem exec_thrWr (n : Size) (a d : Word) (s : State) : exec (thrWr n a d) s = .next (s.passWrite n a d) := by
  cases n <;> rfl

theorem exec_ioRd (n : Size) (k : Kind) (a : Word) (s : State) : exec (ioRd n k a) s = .next (s.passRead n a) := by
  cases n <;> rfl

theorem exec_ioWr (n : Size) (a d : Word) (s : State) : exec (ioWr n a d) s = .next (s.passWrite n a d) := by
  cases n <;> rfl

theorem exec_unmRd (n : Size) (k : Kind) (a : Word) (s : State) : exec (unmRd n k a) s = .next (s.passRead n a) := by
  cases n <;> rfl

theorem exec_unmWr (n : Size) (a d : Word) (s : State) : exec (unmWr n a d) s = .next (s.passWrite n a d) := by
  cases n <;> rfl

theorem exec_daRd (n : Size) (k : Kind) (a : Word) (s : State) : exec (daRd n k a) s = .next (s.dataArrayRead n a) := by
  cases n <;> rfl

theorem exec_daWr (n : Size) (a d : Word) (s : State) : exec (daWr n a d) s = .next (s.dataArrayWrite n a d) := by
  cases n <;> rfl

/-- Every command is one of these. -/
inductive Shape : Instr → Prop where
  | useRd (n k a) : Shape (useRd n k a)
  | useWr (n a d) : Shape (useWr n a d)
  | thrRd (n k a) : Shape (thrRd n k a)
  | thrWr (n a d) : Shape (thrWr n a d)
  | ioRd (n k a) : Shape (ioRd n k a)
  | ioWr (n a d) : Shape (ioWr n a d)
  | unmRd (n k a) : Shape (unmRd n k a)
  | unmWr (n a d) : Shape (unmWr n a d)
  | prgWrL (a d) : Shape (.prgWrL a d)
  | aaRdL (k a) : Shape (.aaRdL k a)
  | aaWrL (a d) : Shape (.aaWrL a d)
  | daRd (n k a) : Shape (daRd n k a)
  | daWr (n a d) : Shape (daWr n a d)
  | reset : Shape .reset
  | enable : Shape .enable
  | disable : Shape .disable
  | setrepl (d) : Shape (.setrepl d)

theorem shape (i : Instr) : Shape i := by
  cases i
  case useRdB k a => exact .useRd .byte k a
  case useRdW k a => exact .useRd .word k a
  case useRdL k a => exact .useRd .long k a
  case useWrB a d => exact .useWr .byte a d
  case useWrW a d => exact .useWr .word a d
  case useWrL a d => exact .useWr .long a d
  case thrRdB k a => exact .thrRd .byte k a
  case thrRdW k a => exact .thrRd .word k a
  case thrRdL k a => exact .thrRd .long k a
  case thrWrB a d => exact .thrWr .byte a d
  case thrWrW a d => exact .thrWr .word a d
  case thrWrL a d => exact .thrWr .long a d
  case ioRdB k a => exact .ioRd .byte k a
  case ioRdW k a => exact .ioRd .word k a
  case ioRdL k a => exact .ioRd .long k a
  case ioWrB a d => exact .ioWr .byte a d
  case ioWrW a d => exact .ioWr .word a d
  case ioWrL a d => exact .ioWr .long a d
  case unmRdB k a => exact .unmRd .byte k a
  case unmRdW k a => exact .unmRd .word k a
  case unmRdL k a => exact .unmRd .long k a
  case unmWrB a d => exact .unmWr .byte a d
  case unmWrW a d => exact .unmWr .word a d
  case unmWrL a d => exact .unmWr .long a d
  case daRdB k a => exact .daRd .byte k a
  case daRdW k a => exact .daRd .word k a
  case daRdL k a => exact .daRd .long k a
  case daWrB a d => exact .daWr .byte a d
  case daWrW a d => exact .daWr .word a d
  case daWrL a d => exact .daWr .long a d
  all_goals constructor

/-! Alignment (R78, R79). -/

@[simp] theorem align_align (n : Size) (a : Word) : align n (align n a) = align n a := by
  cases n <;> simp [align, BitVec.and_assoc]

@[simp] theorem alignEvents_align (n : Size) (a : Word) : alignEvents n (align n a) = [] := by
  simp [alignEvents]

theorem State.noteAlign_align (s : State) (n : Size) (a : Word) : s.noteAlign n (align n a) = s := by
  simp [State.noteAlign]

theorem State.noteAlign_ne {s : State} {n : Size} {a : Word} (h : align n a ≠ a) :
    s.noteAlign n a = s.emit (.diag (.misaligned a n)) := by
  simp [State.noteAlign, h]

theorem setOfAddr_align (n : Size) (a : Word) : setOfAddr (align n a) = setOfAddr a := by
  cases n
  · rfl
  all_goals
    simp only [setOfAddr, align]
    apply BitVec.eq_of_getLsbD_eq; intro i hi
    simp only [BitVec.getLsbD_extractLsb', BitVec.getLsbD_and]
    interval_cases i <;> simp

theorem formTag_align (n : Size) (a : Word) : formTag (align n a) = formTag a := by
  cases n <;> simp [formTag, align, BitVec.and_assoc]

/-- The formed tag is valid (R34). -/
theorem formTag_valid (a : Word) : (formTag a).getLsbD 1 = true := by
  simp [formTag]

/-- The formed tag's fixed bits are 0 (R33). -/
theorem formTag_clean (a : Word) : TagWordClean (formTag a) := by
  have : ∀ x : Word, ((x &&& 0x1FFFFC00#32) ||| 0x02#32) &&& 0xE00003FD#32 = 0 := by
    intro x
    apply BitVec.eq_of_getLsbD_eq; intro i hi
    simp only [BitVec.getLsbD_and, BitVec.getLsbD_or]
    interval_cases i <;> simp
  exact this a

/-! The refill (R148). -/

/-- What a refill at `a` into way `w` has done before it answers: the tag and the LRU update, and the chunk
loop. -/
theorem State.refillRead_start (s : State) (a : Word) (w : Way) :
    let s₁ := (s.touch (setOfAddr a) w).setTag (setOfAddr a) w (formTag a)
    TagInstalled a w s s₁ ∧ LruUsed a w s s₁ ∧ SameControl s s₁ ∧ s₁.faulted = s.faulted ∧
      s₁.busAnswers = s.busAnswers ∧ s₁.busCalls = s.busCalls ∧ s₁.trace = s.trace ∧ s₁.lines = s.lines := by
  refine ⟨fun set w' => ?_, fun set => ?_, ⟨rfl, rfl, rfl, rfl, rfl, rfl, rfl, rfl⟩, rfl, rfl, rfl, rfl, rfl⟩
  · simp [State.tagAt_setTag]
  · simp only [State.setTag_lruAt, State.lruAt_touch, plruUpdate]
    split
    · next h => rw [h]
    · rfl

/-- A refill whose first `j` chunks the bus answers, as its caller sees it. -/
structure Refilled (a : Word) (w : Way) (j : Nat) (v : Nat → Word) (c : Nat → Option Nat) (s t : State) : Prop where
  tag : TagInstalled a w s t
  lru : LruUsed a w s t
  control : SameControl s t
  faulted : t.faulted = s.faulted
  bus : BusCallsMade j s t
  trace : t.trace = s.trace ++ chunkReads a j v c
  lines : Memory.wf s.lines = true → Memory.wf t.lines = true ∧ ChunksStored a w j v s t

theorem Refilled.of_chunksRead {a : Word} {w : Way} {j : Nat} {v : Nat → Word} {c : Nat → Option Nat} {s t : State}
    (h : ChunksRead a w j v c ((s.touch (setOfAddr a) w).setTag (setOfAddr a) w (formTag a)) t) :
    Refilled a w j v c s t := by
  obtain ⟨h1, h2, h3, h4, h5, h6, h7, h8⟩ := State.refillRead_start s a w
  refine ⟨fun set w' => (h.tag set w').trans (h1 set w'), fun set => (h.lru set).trans (h2 set), ?_,
    h.faulted.trans h4, ⟨by rw [h.bus.busAnswers, h5], by rw [h.bus.busCalls, h6]⟩, by rw [h.trace, h7], ?_⟩
  · have hc := h.control
    exact ⟨hc.enabled, hc.replMask, hc.replBiasData, hc.replBiasInstr, hc.params, hc.cfgCacheEnable, hc.aaWay,
      hc.requests⟩
  · intro hw
    obtain ⟨hwt, hst⟩ := h.lines (by rw [h8]; exact hw)
    exact ⟨hwt, ⟨hst.filled, fun i hi hj b hb => hst.kept i hi hj b hb, fun set w' o hne => hst.others set w' o hne⟩⟩

theorem State.refillRead_done {s : State} {a : Word} {w : Way} {v : Nat → Word} {c : Nat → Option Nat} (n : Size)
    (h : ∀ i < 4, s.answerAt i (chunkAddr a i) .long = .done (v i) (c i)) :
    ∃ t, Refilled a w 4 v c s t ∧ s.refillRead a n w = t.respond (some (t.lineRead (setOfAddr a) w (offOf a) n))
      (refillCost ((c 0).getD 0 + (c 1).getD 0 + (c 2).getD 0 + (c 3).getD 0)) := by
  obtain ⟨t, ht, he⟩ := fillChunks_done a w v c ((s.touch (setOfAddr a) w).setTag (setOfAddr a) w (formTag a))
    fun i hi => (State.answerAt_congr rfl rfl _ _ _).trans (h i hi)
  exact ⟨t, .of_chunksRead ht, by simp only [State.refillRead, he]⟩

theorem State.refillRead_fatal {s : State} {a : Word} {w : Way} {v : Nat → Word} {c : Nat → Option Nat} {j : Nat}
    (n : Size) (hj : j < 4) (h : ∀ i < j, s.answerAt i (chunkAddr a i) .long = .done (v i) (c i))
    (hf : s.answerAt j (chunkAddr a j) .long = .fatal) :
    ∃ t, Refilled a w j v c s t ∧ s.refillRead a n w =
      (t.countCall.emit (.busRead (chunkAddr a j) .long .fatal)).raise (.busFault (chunkAddr a j) .long) := by
  obtain ⟨t, ht, he⟩ := fillChunks_fatal a w v c ((s.touch (setOfAddr a) w).setTag (setOfAddr a) w (formTag a)) j hj
    (fun i hi => (State.answerAt_congr rfl rfl _ _ _).trans (h i hi))
    ((State.answerAt_congr rfl rfl _ _ _).trans hf)
  exact ⟨t, .of_chunksRead ht, by simp only [State.refillRead, he]⟩

/-- A refill ends in one of two ways, whatever the bus answers. -/
theorem State.refillRead_cases (s : State) (a : Word) (n : Size) (w : Way) :
    (∃ v c t, (∀ i < 4, s.answerAt i (chunkAddr a i) .long = .done (v i) (c i)) ∧ Refilled a w 4 v c s t ∧
      s.refillRead a n w = t.respond (some (t.lineRead (setOfAddr a) w (offOf a) n))
        (refillCost ((c 0).getD 0 + (c 1).getD 0 + (c 2).getD 0 + (c 3).getD 0))) ∨
    (∃ j v c t, j < 4 ∧ s.answerAt j (chunkAddr a j) .long = .fatal ∧ Refilled a w j v c s t ∧
      s.refillRead a n w = (t.countCall.emit (.busRead (chunkAddr a j) .long .fatal)).raise (.busFault (chunkAddr a j) .long)) := by
  obtain ⟨v, c, t, ha, ht, he⟩ | ⟨j, v, c, t, hj, ha, ht, he⟩ :=
    fillChunks_cases a w ((s.touch (setOfAddr a) w).setTag (setOfAddr a) w (formTag a))
  · exact .inl ⟨v, c, t, fun i hi => (State.answerAt_congr rfl rfl _ _ _).symm.trans (ha i hi), .of_chunksRead ht, by simp only [State.refillRead, he]⟩
  · exact .inr ⟨j, v, c, t, hj, (State.answerAt_congr rfl rfl _ _ _).symm.trans ha, .of_chunksRead ht, by simp only [State.refillRead, he]⟩

/-! The read hit (R143, R280). -/

theorem State.readHit_unchecked {s : State} (h : s.params.coherencyCheck = false) (a : Word) (n : Size) (w : Way) :
    s.readHit a n w =
      (s.touch (setOfAddr a) w).respond (some (s.lineRead (setOfAddr a) w (offOf a) n)) s.params.hitCost := by
  simp [State.readHit, h]

theorem State.readHit_checked {s : State} (h : s.params.coherencyCheck = true) {a : Word} {n : Size} {b : Word}
    {c : Option Nat} (hb : s.nextAnswer a n = .done b c) (w : Way) :
    s.readHit a n w =
      let v := s.lineRead (setOfAddr a) w (offOf a) n
      let s₁ := (s.touch (setOfAddr a) w).countCall.emit (.busRead a n (.done b c))
      (if lowBits n b = v then s₁ else s₁.emit (.diag (.coherencyMismatch a n v (lowBits n b)))).respond
        (some v) s.params.hitCost := by
  simp [State.readHit, h, State.checkCoherency, State.memRead_eq, hb]

theorem State.readHit_fatal {s : State} (h : s.params.coherencyCheck = true) {a : Word} {n : Size}
    (hb : s.nextAnswer a n = .fatal) (w : Way) :
    s.readHit a n w =
      ((s.touch (setOfAddr a) w).countCall.emit (.busRead a n .fatal)).raise (.busFault a n) := by
  simp [State.readHit, h, State.checkCoherency, State.memRead_eq, hb]

/-! The routing of a Use-region request (R140). -/

theorem State.useRead_cached {s : State} (h : s.cachedEnabled = true) (n : Size) (k : Kind) (a : Word) :
    s.useRead n k a = (s.noteAlign n a).cachedRead (align n a) n k := by
  simp [State.useRead, h]

theorem State.useRead_uncached {s : State} (h : s.cachedEnabled = false) (n : Size) (k : Kind) (a : Word) :
    s.useRead n k a = (s.noteAlign n a).busRead (align n a) n := by
  simp [State.useRead, h]

theorem State.useWrite_cached {s : State} (h : s.cachedEnabled = true) (n : Size) (a d : Word) :
    s.useWrite n a d = (s.noteAlign n a).cachedWrite (align n a) n d := by
  simp [State.useWrite, h]

theorem State.useWrite_uncached {s : State} (h : s.cachedEnabled = false) (n : Size) (a d : Word) :
    s.useWrite n a d = (s.noteAlign n a).busWrite (align n a) n d := by
  simp [State.useWrite, h]

/-! The purge (R230). -/

theorem State.purgeWay_tagAt (s : State) (set : SetIdx) (t : Word) (w : Way) (set' : SetIdx) (w' : Way) :
    (s.purgeWay set t w).tagAt set' w' =
      if set' = set ∧ w' = w ∧ s.tagAt set w = t then clearValid (s.tagAt set w) else s.tagAt set' w' := by
  unfold State.purgeWay
  by_cases h : s.tagAt set w = t <;> simp [h, State.tagAt_setTag]

/-- Everything but the tags is as before. -/
structure OnlyTags (s t : State) : Prop where
  line : ∀ set w o, t.lineByte set w o = s.lineByte set w o
  lru : ∀ set, t.lruAt set = s.lruAt set
  control : SameControl s t
  faulted : t.faulted = s.faulted
  bus : SameBus s t
  trace : t.trace = s.trace
  lines : t.lines = s.lines

theorem State.purgeWay_onlyTags (s : State) (set : SetIdx) (t : Word) (w : Way) : OnlyTags s (s.purgeWay set t w) := by
  unfold State.purgeWay
  split
  · exact ⟨fun _ _ _ => by simp, fun _ => by simp, ⟨rfl, rfl, rfl, rfl, rfl, rfl, rfl, rfl⟩, rfl, ⟨rfl, rfl⟩, rfl, rfl⟩
  · exact ⟨fun _ _ _ => rfl, fun _ => rfl, ⟨rfl, rfl, rfl, rfl, rfl, rfl, rfl, rfl⟩, rfl, ⟨rfl, rfl⟩, rfl, rfl⟩

theorem OnlyTags.trans {s t u : State} (h : OnlyTags s t) (h' : OnlyTags t u) : OnlyTags s u := by
  obtain ⟨a1, a2, ⟨b1, b2, b3, b4, b5, b6, b7, b8⟩, a4, ⟨b9, b10⟩, a6, a7⟩ := h
  obtain ⟨c1, c2, ⟨d1, d2, d3, d4, d5, d6, d7, d8⟩, c4, ⟨d9, d10⟩, c6, c7⟩ := h'
  exact ⟨fun _ _ _ => (c1 _ _ _).trans (a1 _ _ _), fun _ => (c2 _).trans (a2 _), ⟨d1.trans b1, d2.trans b2,
    d3.trans b3, d4.trans b4, d5.trans b5, d6.trans b6, d7.trans b7, d8.trans b8⟩, c4.trans a4,
    ⟨d9.trans b9, d10.trans b10⟩, c6.trans a6, c7.trans a7⟩

/-- The purge's scan clears V in every way of the set that holds the formed tag, and nothing else. -/
theorem State.purge_scan (s : State) (set : SetIdx) (t : Word) :
    let u := [0#2, 1#2, 2#2, 3#2].foldl (fun s w => s.purgeWay set t w) s
    (∀ set' w', u.tagAt set' w' =
      if set' = set ∧ s.tagAt set' w' = t then clearValid (s.tagAt set' w') else s.tagAt set' w') ∧
    OnlyTags s u := by
  refine ⟨fun set' w' => ?_, ?_⟩
  · simp only [List.foldl_cons, List.foldl_nil, State.purgeWay_tagAt]
    by_cases hs : set' = set
    · subst hs
      rcases way_cases w' with rfl | rfl | rfl | rfl <;> simp
    · simp [hs]
  · have h0 := State.purgeWay_onlyTags s set t 0#2
    have h1 := h0.trans (State.purgeWay_onlyTags _ set t 1#2)
    have h2 := h1.trans (State.purgeWay_onlyTags _ set t 2#2)
    have h3 := h2.trans (State.purgeWay_onlyTags _ set t 3#2)
    simpa only [List.foldl_cons, List.foldl_nil] using h3

/-- The purge: the scan, then the response. -/
theorem State.purge_eq (s : State) (a : Word) :
    ∃ u, (∀ set w, u.tagAt set w =
        if set = setOfAddr a ∧ s.tagAt set w = formTag a then clearValid (s.tagAt set w) else s.tagAt set w) ∧
      OnlyTags s u ∧ s.purge a = u.respond none s.params.arrayCost := by
  obtain ⟨h1, h2⟩ := s.purge_scan (setOfAddr a) (formTag a)
  exact ⟨_, h1, h2, by unfold State.purge; rfl⟩

end Sys2Proof.Machine
end

