-- ==== Sys2Proof/Laws/Encoding.lean ====
section
/-! SUPPORT. The fields of the words the encoder makes, and words from their fields. -/

namespace Sys2Proof

open Sys2Proof.Machine

/-! The fields of the REQ word the encoder writes (R111). -/

theorem reqWord_c (w : Bool) (sz : BitVec 2) (k : BitVec 1) (a : Word) : (reqWord w sz k a).getLsbD 36 = false := by
  simp only [reqWord, BitVec.getLsbD_append]; simp

theorem reqWord_w (w : Bool) (sz : BitVec 2) (k : BitVec 1) (a : Word) : (reqWord w sz k a).getLsbD 35 = w := by
  simp only [reqWord, BitVec.getLsbD_append]; cases w <;> simp

theorem reqWord_sz (w : Bool) (sz : BitVec 2) (k : BitVec 1) (a : Word) : (reqWord w sz k a).extractLsb' 33 2 = sz := by
  apply BitVec.eq_of_getLsbD_eq; intro i hi
  simp only [reqWord, BitVec.getLsbD_extractLsb', BitVec.getLsbD_append]
  interval_cases i <;> simp

theorem reqWord_a (w : Bool) (sz : BitVec 2) (k : BitVec 1) (a : Word) : (reqWord w sz k a).extractLsb' 0 32 = a := by
  apply BitVec.eq_of_getLsbD_eq; intro i hi
  simp only [reqWord, BitVec.getLsbD_extractLsb', BitVec.getLsbD_append]
  simp [hi]

theorem reqWord_k (w : Bool) (sz : BitVec 2) (k : Kind) (a : Word) : kindOfBit ((reqWord w sz (kindBit k) a).getLsbD 32) = k := by
  simp only [reqWord, BitVec.getLsbD_append]; cases k <;> simp [kindBit, kindOfBit]
/-! The fields of the CTRL word the encoder writes (R112). -/

theorem ctrlWord_c (c : BitVec 4) : (ctrlWord c).getLsbD 36 = true := by
  revert c; decide

theorem ctrlWord_cmd (c : BitVec 4) : (ctrlWord c).extractLsb' 32 4 = c := by
  revert c; decide

/-! A word from its fields. -/

/-- The fields of R111 are the whole word. -/
theorem word_eq_fields (q : CmdWord) :
    q = BitVec.ofBool (q.getLsbD 36) ++ BitVec.ofBool (q.getLsbD 35) ++ q.extractLsb' 33 2 ++
      BitVec.ofBool (q.getLsbD 32) ++ q.extractLsb' 0 32 := by
  apply BitVec.eq_of_getLsbD_eq; intro i hi
  simp only [BitVec.getLsbD_append]; interval_cases i <;> simp

theorem kindBit_kindOfBit (b : Bool) : kindBit (kindOfBit b) = BitVec.ofBool b := by cases b <;> rfl

/-- A read's word is the encoder's of its fields. -/
theorem reqWord_of_read (q : CmdWord) (hc : q.getLsbD 36 = false) (hw : q.getLsbD 35 = false) :
    reqWord false (q.extractLsb' 33 2) (kindBit (kindOfBit (q.getLsbD 32))) (q.extractLsb' 0 32) = q := by
  have h := word_eq_fields q
  rw [hc, hw] at h
  rw [kindBit_kindOfBit]
  exact h.symm

/-- A write's word is the encoder's of its fields but for the ignored bit `K`. -/
theorem reqWord_of_write (q : CmdWord) (hc : q.getLsbD 36 = false) (hw : q.getLsbD 35 = true) :
    reqWord true (q.extractLsb' 33 2) 0#1 (q.extractLsb' 0 32) = q &&& ~~~0x0100000000#37 := by
  apply BitVec.eq_of_getLsbD_eq; intro i hi
  simp only [reqWord, BitVec.getLsbD_append, BitVec.getLsbD_and]
  by_cases h1 : i < 32
  · have : (~~~0x0100000000#37).getLsbD i = true := by interval_cases i <;> rfl
    rw [this]; simp [h1]
  · have hi' : 32 ≤ i := by omega
    interval_cases i <;> simp <;> first | (simpa using hw) | (simpa using hc)

/-- A control word is the encoder's of its field but for the ignored bits 31:0. -/
theorem ctrlWord_of_word (q : CmdWord) (hc : q.getLsbD 36 = true) :
    ctrlWord (q.extractLsb' 32 4) = q &&& ~~~0x00FFFFFFFF#37 := by
  apply BitVec.eq_of_getLsbD_eq; intro i hi
  simp only [ctrlWord, BitVec.getLsbD_append, BitVec.getLsbD_and]
  by_cases h1 : i < 32
  · have : (~~~0x00FFFFFFFF#37).getLsbD i = false := by interval_cases i <;> rfl
    rw [this]; simp [h1]
  · have hi' : 32 ≤ i := by omega
    interval_cases i <;> (simp; try simpa using hc)

theorem sizeOfCode_some {c : BitVec 2} {n : Size} (h : sizeOfCode c = some n) : c = sizeCode n := by
  revert h; revert c; cases n <;> decide


end Sys2Proof
end

