-- ==== Sys2Proof/Laws/Frames.lean ====
section
/-! SUPPORT. What a request leaves as it was: the alignment event passed through, the Use-region reads and writes,
the pass-through accesses, and addresses of one line. -/

namespace Sys2Proof.Machine

/-! Addresses of one line (bits 28:4). -/

theorem sameLine_fields {a b : Word} (h : SameLine a b) : setOfAddr b = setOfAddr a ∧ formTag b = formTag a := by
  have hb : ∀ i, 4 ≤ i → i < 29 → a.getLsbD i = b.getLsbD i := by
    intro i h4 h29
    have := congrArg (fun x => x.getLsbD (i - 4)) h
    simpa [show i - 4 < 25 by omega, show 4 + (i - 4) = i by omega] using this
  constructor
  · apply BitVec.eq_of_getLsbD_eq; intro i hi
    simp only [setOfAddr, BitVec.getLsbD_extractLsb', hi, decide_true, Bool.true_and]
    exact (hb _ (by omega) (by omega)).symm
  · apply BitVec.eq_of_getLsbD_eq; intro i hi
    simp only [formTag, BitVec.getLsbD_or, BitVec.getLsbD_and]
    by_cases h1 : 4 ≤ i ∧ i < 29
    · rw [hb i h1.1 h1.2]
    · have : (0x1FFFFC00#32).getLsbD i = false := by
        have : i < 4 ∨ i = 29 ∨ i = 30 ∨ i = 31 := by omega
        rcases this with h | rfl | rfl | rfl
        · interval_cases i <;> rfl
        all_goals rfl
      rw [this]; simp

/-- The set and the formed tag are the line's address. -/
theorem sameLine_of_fields {a b : Word} (hs : setOfAddr a = setOfAddr b) (ht : formTag a = formTag b) :
    SameLine a b := by
  apply BitVec.eq_of_getLsbD_eq; intro i hi
  simp only [BitVec.getLsbD_extractLsb', hi, decide_true, Bool.true_and]
  by_cases h6 : i < 6
  · have := congrArg (fun x : SetIdx => x.getLsbD i) hs
    simpa [setOfAddr, h6] using this
  · have := congrArg (fun x : Word => x.getLsbD (4 + i)) ht
    have m1 : (0x1FFFFC00#32).getLsbD (4 + i) = true := by
      have : 6 ≤ i := by omega
      interval_cases i <;> rfl
    have m2 : (0x02#32).getLsbD (4 + i) = false := by
      have : 6 ≤ i := by omega
      interval_cases i <;> rfl
    simp only [formTag, BitVec.getLsbD_or, BitVec.getLsbD_and, m1, m2, Bool.and_true, Bool.or_false] at this
    exact this

theorem sameLine_align (n : Size) (a : Word) : SameLine (align n a) a := by
  cases n
  · rfl
  all_goals
    apply BitVec.eq_of_getLsbD_eq; intro i hi
    simp only [align, BitVec.getLsbD_extractLsb', BitVec.getLsbD_and]
    interval_cases i <;> simp

/-- A way whose tag a refill installed hits for every address of the line. -/
theorem hitsWay_of_tagInstalled {s t : State} {a b : Word} {w : Way} (hm : Misses s a) (h : TagInstalled a w s t)
    (hb : SameLine a b) : HitsWay t b w := by
  obtain ⟨hset, ht⟩ := sameLine_fields hb
  refine ⟨by rw [hset, h, if_pos ⟨rfl, rfl⟩, ht], fun w' hw => ?_⟩
  rw [hset, h, if_neg, ht]
  · exact hm w'
  · rintro ⟨_, rfl⟩; exact absurd hw (by simp)

/-! The alignment event passed through. -/

theorem State.cachedEnabled_eq_true {s : State} (h1 : s.cfgCacheEnable = true) (h2 : s.enabled = true) :
    s.cachedEnabled = true := by
  simp [State.cachedEnabled, h1, h2]

theorem State.answerAt_noteAlign (s : State) (n : Size) (A : Word) (i : Nat) (a : Word) (m : Size) :
    (s.noteAlign n A).answerAt i a m = s.answerAt i a m :=
  State.answerAt_congr (by simp) (by simp) _ _ _

/-- A Use-region read that refills, as one operation. -/
theorem State.useRead_refills {s : State} {n : Size} {k : Kind} {A : Word} {w : Way}
    (h : RefillsWay s (align n A) k w) : s.useRead n k A = (s.noteAlign n A).refillRead (align n A) n w := by
  rw [State.useRead_cached (State.cachedEnabled_eq_true h.cfg h.enabled)]
  obtain ⟨raw, hr, hw⟩ := h.victim
  have : (s.noteAlign n A).selectVictim (setOfAddr (align n A)) k = some w := by
    rw [State.noteAlign_selectVictim, State.selectVictim_eq, hr, hw]; rfl
  simp only [State.cachedRead, State.noteAlign_lookup, State.lookup_eq_none.mpr h.miss, this]

/-- What a refill has done since before the alignment event. -/
theorem Refilled.of_noteAlign {s t : State} {n : Size} {A a : Word} {w : Way} {j : Nat} {v : Nat → Word}
    {c : Nat → Option Nat} (h : Refilled a w j v c (s.noteAlign n A) t) :
    TagInstalled a w s t ∧ LruUsed a w s t ∧
      (Memory.wf s.lines = true → Memory.wf t.lines = true ∧ ChunksStored a w j v s t) ∧ SameControl s t ∧
      t.faulted = s.faulted ∧ BusCallsMade j s t ∧ t.trace = s.trace ++ alignEvents n A ++ chunkReads a j v c := by
  refine ⟨?_, ?_, ?_, ?_, ?_, ?_, ?_⟩
  · intro set w'; have := h.tag set w'; simpa using this
  · intro set; have := h.lru set; simpa using this
  · intro hw
    obtain ⟨h1, h2⟩ := h.lines (by simpa using hw)
    exact ⟨h1, h2.filled, fun i hi hj b hb => (h2.kept i hi hj b hb).trans (by simp),
      fun set w' o hn => (h2.others set w' o hn).trans (by simp)⟩
  · obtain ⟨a1, a2, a3, a4, a5, a6, a7, a8⟩ := h.control
    constructor <;> simp [*]
  · simpa using h.faulted
  · obtain ⟨a1, a2⟩ := h.bus; constructor <;> simp [*]
  · simpa using h.trace

theorem Stored.congr {set : SetIdx} {w : Way} {o : Offset} {n : Size} {v : Word} {s s' t t' : State}
    (h : Stored set w o n v s t) (hs : ∀ a b c, s.lineByte a b c = s'.lineByte a b c)
    (ht : ∀ a b c, t.lineByte a b c = t'.lineByte a b c) : Stored set w o n v s' t' := by
  intro a b c; rw [← ht, h, hs]

/-- What a write hit does to the block, since before the alignment event. -/
structure WriteHitDone (n : Size) (A : Word) (w : Way) (D : Word) (s t : State) : Prop where
  line : Stored (setOfAddr (align n A)) w (offOf (align n A)) n D s t
  lruUsed : s.params.writeHitUpdatesLru = true → LruUsed (align n A) w s t
  lruKept : s.params.writeHitUpdatesLru = false → ∀ set, t.lruAt set = s.lruAt set
  tag : ∀ set w', t.tagAt set w' = s.tagAt set w'
  control : SameControl s t
  faulted : t.faulted = s.faulted
  bus : SameBus s t
  trace : t.trace = s.trace ++ alignEvents n A
  wf : Memory.wf t.lines = true

theorem State.writeHit_done {s : State} (hwf : Memory.wf s.lines = true) (n : Size) (A : Word) (w : Way) (D : Word) :
    WriteHitDone n A w D s ((s.noteAlign n A).writeHit (align n A) n w D) := by
  have hst := State.stored_lineWrite (s := s.noteAlign n A) (by simpa using hwf) (setOfAddr (align n A)) w
    (offOf (align n A)) n D
  have hw := State.wf_lineWrite (s := s.noteAlign n A) (by simpa using hwf) (setOfAddr (align n A)) w
    (offOf (align n A)) n D
  simp only [State.writeHit, State.noteAlign_params]
  split
  · next h =>
    refine ⟨hst.congr (by simp) (by simp), ?_, by simp [h], by simp, by constructor <;> simp, by simp,
      by constructor <;> simp, by simp, by simpa using hw⟩
    intro _ set; simp [State.lruAt_touch, plruUpdate]; split <;> simp_all
  · next h =>
    exact ⟨hst.congr (by simp) (by simp), by simp [h], by simp, by simp, by constructor <;> simp, by simp,
      by constructor <;> simp, by simp, by simpa using hw⟩

/-! Every Use-region read, and every other access. -/

/-- What a Use-region read at the aligned address `a` may have done to the arrays: used a way, or filled one. -/
inductive ReadDone (a : Word) (s t : State) : Prop where
  | kept (tag : ∀ x y, t.tagAt x y = s.tagAt x y)
      (lru : (∀ x, t.lruAt x = s.lruAt x) ∨ ∃ w, LruUsed a w s t)
      (line : ∀ x y z, t.lineByte x y z = s.lineByte x y z) (lines : t.lines = s.lines)
  | filled (w : Way) (miss : Misses s a) (tag : TagInstalled a w s t) (lru : LruUsed a w s t)
      (wf : Memory.wf s.lines = true → Memory.wf t.lines = true)

theorem State.readHit_done (s : State) (a : Word) (n : Size) (w : Way) :
    ReadDone a s (s.readHit a n w) ∧ SameControl s (s.readHit a n w) := by
  have hl : LruUsed a w s (s.touch (setOfAddr a) w) := by
    intro set; rw [State.lruAt_touch, plruUpdate]; split <;> simp_all
  cases hc : s.params.coherencyCheck with
  | false =>
    rw [State.readHit_unchecked hc]
    exact ⟨.kept (by simp) (.inr ⟨w, fun x => by simpa using hl x⟩) (by simp) (by simp), by constructor <;> simp⟩
  | true =>
    cases hb : s.nextAnswer a n with
    | done b c =>
      rw [State.readHit_checked hc hb]
      simp only
      split
      · exact ⟨.kept (by simp) (.inr ⟨w, fun x => by simpa using hl x⟩) (by simp) (by simp),
          by constructor <;> simp⟩
      · exact ⟨.kept (by simp) (.inr ⟨w, fun x => by simpa using hl x⟩) (by simp) (by simp),
          by constructor <;> simp⟩
    | fatal =>
      rw [State.readHit_fatal hc hb]
      exact ⟨.kept (by simp) (.inr ⟨w, fun x => by simpa using hl x⟩) (by simp) (by simp),
        by constructor <;> simp⟩

/-- One bus access answered to the requester touches no array and no control register. -/
structure BusOnly (s t : State) : Prop where
  tag : ∀ x y, t.tagAt x y = s.tagAt x y
  lru : ∀ x, t.lruAt x = s.lruAt x
  line : ∀ x y z, t.lineByte x y z = s.lineByte x y z
  lines : t.lines = s.lines
  control : SameControl s t

theorem State.busRead_only (s : State) (a : Word) (n : Size) : BusOnly s (s.busRead a n) := by
  obtain ⟨v, c, h, e⟩ | ⟨h, e⟩ := s.busRead_cases a n <;> rw [e] <;>
    exact ⟨by simp, by simp, by simp, by simp, by constructor <;> simp⟩

theorem State.busWrite_only (s : State) (a : Word) (n : Size) (d : Word) : BusOnly s (s.busWrite a n d) := by
  obtain ⟨v, c, h, e⟩ | ⟨h, e⟩ := s.busWrite_cases a n d <;> rw [e] <;>
    exact ⟨by simp, by simp, by simp, by simp, by constructor <;> simp⟩

theorem BusOnly.of_noteAlign {s t : State} {n : Size} {a : Word} (h : BusOnly (s.noteAlign n a) t) : BusOnly s t := by
  obtain ⟨h1, h2, h3, h4, ⟨a1, a2, a3, a4, a5, a6, a7, a8⟩⟩ := h
  exact ⟨fun x y => by simpa using h1 x y, fun x => by simpa using h2 x, fun x y z => by simpa using h3 x y z,
    by simpa using h4, by constructor <;> simp [*]⟩

theorem State.passRead_only (s : State) (n : Size) (a : Word) : BusOnly s (s.passRead n a) :=
  .of_noteAlign ((s.noteAlign n a).busRead_only (align n a) n)

theorem State.passWrite_only (s : State) (n : Size) (a d : Word) : BusOnly s (s.passWrite n a d) :=
  .of_noteAlign ((s.noteAlign n a).busWrite_only (align n a) n d)

theorem State.refillRead_frame {s : State} {a : Word} (hm : Misses s a) (n : Size) (w : Way) :
    ReadDone a s (s.refillRead a n w) ∧ SameControl s (s.refillRead a n w) := by
  obtain ⟨v, c, t, -, ht, e⟩ | ⟨j, v, c, t, hj, -, ht, e⟩ := s.refillRead_cases a n w <;> rw [e] <;>
    refine ⟨.filled w hm (fun x y => by simpa using ht.tag x y) (fun x => by simpa using ht.lru x)
      (fun h => by simpa using (ht.lines h).1), ?_⟩ <;>
    obtain ⟨a1, a2, a3, a4, a5, a6, a7, a8⟩ := ht.control <;> constructor <;> simp [*]

/-- Every Use-region read. -/
theorem State.useRead_done (s : State) (n : Size) (k : Kind) (A : Word) :
    ReadDone (align n A) s (s.useRead n k A) ∧ SameControl s (s.useRead n k A) := by
  have key : ReadDone (align n A) (s.noteAlign n A) (s.useRead n k A) ∧
      SameControl (s.noteAlign n A) (s.useRead n k A) := by
    have bus : ∀ t, BusOnly (s.noteAlign n A) t →
        ReadDone (align n A) (s.noteAlign n A) t ∧ SameControl (s.noteAlign n A) t :=
      fun t h => ⟨.kept h.tag (.inl h.lru) h.line h.lines, h.control⟩
    unfold State.useRead
    split
    · unfold State.cachedRead
      simp only
      split
      · exact State.readHit_done _ _ _ _
      · next h =>
        rw [State.lookup_eq_none] at h
        split
        · exact bus _ (State.busRead_only _ _ _)
        · exact State.refillRead_frame h _ _
    · exact bus _ (State.busRead_only _ _ _)
  obtain ⟨k1, ⟨a1, a2, a3, a4, a5, a6, a7, a8⟩⟩ := key
  refine ⟨?_, by constructor <;> simp [*]⟩
  cases k1 with
  | kept t l li w =>
    refine .kept (fun x y => by simpa using t x y) ?_ (fun x y z => by simpa using li x y z) (by simpa using w)
    rcases l with l | ⟨w, l⟩
    · exact .inl fun x => by simpa using l x
    · exact .inr ⟨w, fun x => by simpa using l x⟩
  | filled w m t l wf =>
    exact .filled w (fun y => by simpa using m y) (fun x y => by simpa using t x y) (fun x => by simpa using l x)
      (fun h => wf (by simpa using h))

/-- What a Use-region write may have done to the arrays. -/
structure WriteDone (a : Word) (s t : State) : Prop where
  tag : ∀ x y, t.tagAt x y = s.tagAt x y
  lru : (∀ x, t.lruAt x = s.lruAt x) ∨ ∃ w, LruUsed a w s t
  control : SameControl s t
  wf : Memory.wf s.lines = true → Memory.wf t.lines = true

/-- Every Use-region write. -/
theorem State.useWrite_done (s : State) (n : Size) (A D : Word) :
    WriteDone (align n A) s (s.useWrite n A D) := by
  have bus : ∀ t, BusOnly (s.noteAlign n A) t → WriteDone (align n A) s t := by
    intro t h
    obtain ⟨h1, h2, h3, h4, h5⟩ := BusOnly.of_noteAlign h
    exact ⟨h1, .inl h2, h5, fun hw => by rw [h4]; exact hw⟩
  unfold State.useWrite
  split
  · unfold State.cachedWrite
    simp only
    split
    · next w _ =>
      obtain ⟨h1, h2, h3, h4, ⟨a1, a2, a3, a4, a5, a6, a7, a8⟩⟩ :=
        ((s.noteAlign n A).writeHit (align n A) n w D).busWrite_only (align n A) n D
      by_cases hw : s.params.writeHitUpdatesLru = true
      · simp only [State.writeHit, State.noteAlign_params, hw, if_true] at *
        refine ⟨fun x y => by simpa using h1 x y, .inr ⟨w, fun x => ?_⟩, by constructor <;> simp [*], fun hh => ?_⟩
        · rw [h2, State.lruAt_touch, plruUpdate]; simp; split <;> simp_all
        · rw [h4]; simp; exact State.wf_lineWrite (by simpa using hh) _ _ _ _ _
      · simp only [State.writeHit, State.noteAlign_params, hw] at *
        refine ⟨fun x y => by simpa using h1 x y, .inl fun x => by simpa using h2 x, by constructor <;> simp_all,
          fun hh => ?_⟩
        rw [h4]; exact State.wf_lineWrite (by simpa using hh) _ _ _ _ _
    · exact bus _ (State.busWrite_only _ _ _ _)
  · exact bus _ (State.busWrite_only _ _ _ _)

end Sys2Proof.Machine
end

