-- ==== Sys2Proof/Laws/PerInstr.lean ====
section
/-! SUPPORT. The family of per-instruction statements `RowMatch`: the encoder's word of a well-formed command is a
word of the command's row of the opcode map (spec/30_encoding.md R120). -/

namespace Sys2Proof.Laws.RowMatch

open Sys2Proof

/-- The word of a well-formed command matches the command's row (R120). -/
def Statement (i : Instr) : Prop := WellFormed defaultRegionMap i → i.row.Matches (encode i).1

/-- The region of the default map and the top three address bits (R115). -/
theorem top_bits (a : Word) (r : Region) (h : regionOf defaultRegionMap a = r) :
    ∀ t : BitVec 3, (∀ u : BitVec 3, defaultRegionMap[u.toNat]'u.isLt = r → u = t) → a.extractLsb' 29 3 = t :=
  fun _ ht => ht _ h

/-- The bits of a REQ word that the rows of a region with one pattern look at. -/
theorem reqWord_and_mask (w : Bool) (sz : BitVec 2) (k : BitVec 1) (a : Word) :
    reqWord w sz k a &&& 0x1EE0000000#37 = 0#1 ++ BitVec.ofBool w ++ sz ++ 0#1 ++ a.extractLsb' 29 3 ++ 0#29 := by
  apply BitVec.eq_of_getLsbD_eq; intro i hi
  simp only [reqWord, BitVec.getLsbD_and, BitVec.getLsbD_append]
  by_cases h : i < 29
  · have : (0x1EE0000000#37).getLsbD i = false := by interval_cases i <;> rfl
    rw [this]; simp [h]
  · have : 29 ≤ i := by omega
    interval_cases i <;> simp

/-- The bits of a REQ word that the rows of the unmapped region look at, which has two patterns. -/
theorem reqWord_and_mask_unmapped (w : Bool) (sz : BitVec 2) (k : BitVec 1) (a : Word) :
    reqWord w sz k a &&& 0x1EC0000000#37 = 0#1 ++ BitVec.ofBool w ++ sz ++ 0#1 ++ a.extractLsb' 30 2 ++ 0#30 := by
  apply BitVec.eq_of_getLsbD_eq; intro i hi
  simp only [reqWord, BitVec.getLsbD_and, BitVec.getLsbD_append]
  by_cases h : i < 30
  · have : (0x1EC0000000#37).getLsbD i = false := by interval_cases i <;> rfl
    rw [this]; simp [h]
  · have : 30 ≤ i := by omega
    interval_cases i <;> simp

/-- An unmapped address has top bits 10. -/
theorem unmapped_top (a : Word) (h : regionOf defaultRegionMap a = .unmapped) : a.extractLsb' 30 2 = 2#2 := by
  have key : ∀ u : BitVec 3, defaultRegionMap[u.toNat]'u.isLt = .unmapped → u.extractLsb' 1 2 = 2#2 := by decide
  have := key (a.extractLsb' 29 3) h
  rw [← this]
  apply BitVec.eq_of_getLsbD_eq; intro i hi
  simp only [BitVec.getLsbD_extractLsb']
  interval_cases i <;> simp

/-- The well-formedness of a memory request is that of its one address. -/
theorem target_region {i : Instr} {a : Word} {r : Region} (hi : i.target = some (a, r))
    (h : WellFormed defaultRegionMap i) : regionOf defaultRegionMap a = r :=
  h (a, r) hi

/-- USE.RD.B. -/
theorem useRdB (k : Kind) (a : Word) : Statement (.useRdB k a) := by
  intro h
  have t := top_bits a _ (target_region rfl h) 0#3 (by decide)
  simp only [OpcodeRow.Matches, Instr.row, encode, reqWord_and_mask, t]; rfl

/-- USE.RD.W. -/
theorem useRdW (k : Kind) (a : Word) : Statement (.useRdW k a) := by
  intro h
  have t := top_bits a _ (target_region rfl h) 0#3 (by decide)
  simp only [OpcodeRow.Matches, Instr.row, encode, reqWord_and_mask, t]; rfl

/-- USE.RD.L. -/
theorem useRdL (k : Kind) (a : Word) : Statement (.useRdL k a) := by
  intro h
  have t := top_bits a _ (target_region rfl h) 0#3 (by decide)
  simp only [OpcodeRow.Matches, Instr.row, encode, reqWord_and_mask, t]; rfl

/-- USE.WR.B. -/
theorem useWrB (a d : Word) : Statement (.useWrB a d) := by
  intro h
  have t := top_bits a _ (target_region rfl h) 0#3 (by decide)
  simp only [OpcodeRow.Matches, Instr.row, encode, reqWord_and_mask, t]; rfl

/-- USE.WR.W. -/
theorem useWrW (a d : Word) : Statement (.useWrW a d) := by
  intro h
  have t := top_bits a _ (target_region rfl h) 0#3 (by decide)
  simp only [OpcodeRow.Matches, Instr.row, encode, reqWord_and_mask, t]; rfl

/-- USE.WR.L. -/
theorem useWrL (a d : Word) : Statement (.useWrL a d) := by
  intro h
  have t := top_bits a _ (target_region rfl h) 0#3 (by decide)
  simp only [OpcodeRow.Matches, Instr.row, encode, reqWord_and_mask, t]; rfl

/-- THR.RD.B. -/
theorem thrRdB (k : Kind) (a : Word) : Statement (.thrRdB k a) := by
  intro h
  have t := top_bits a _ (target_region rfl h) 1#3 (by decide)
  simp only [OpcodeRow.Matches, Instr.row, encode, reqWord_and_mask, t]; rfl

/-- THR.RD.W. -/
theorem thrRdW (k : Kind) (a : Word) : Statement (.thrRdW k a) := by
  intro h
  have t := top_bits a _ (target_region rfl h) 1#3 (by decide)
  simp only [OpcodeRow.Matches, Instr.row, encode, reqWord_and_mask, t]; rfl

/-- THR.RD.L. -/
theorem thrRdL (k : Kind) (a : Word) : Statement (.thrRdL k a) := by
  intro h
  have t := top_bits a _ (target_region rfl h) 1#3 (by decide)
  simp only [OpcodeRow.Matches, Instr.row, encode, reqWord_and_mask, t]; rfl

/-- THR.WR.B. -/
theorem thrWrB (a d : Word) : Statement (.thrWrB a d) := by
  intro h
  have t := top_bits a _ (target_region rfl h) 1#3 (by decide)
  simp only [OpcodeRow.Matches, Instr.row, encode, reqWord_and_mask, t]; rfl

/-- THR.WR.W. -/
theorem thrWrW (a d : Word) : Statement (.thrWrW a d) := by
  intro h
  have t := top_bits a _ (target_region rfl h) 1#3 (by decide)
  simp only [OpcodeRow.Matches, Instr.row, encode, reqWord_and_mask, t]; rfl

/-- THR.WR.L. -/
theorem thrWrL (a d : Word) : Statement (.thrWrL a d) := by
  intro h
  have t := top_bits a _ (target_region rfl h) 1#3 (by decide)
  simp only [OpcodeRow.Matches, Instr.row, encode, reqWord_and_mask, t]; rfl

/-- IO.RD.B. -/
theorem ioRdB (k : Kind) (a : Word) : Statement (.ioRdB k a) := by
  intro h
  have t := top_bits a _ (target_region rfl h) 7#3 (by decide)
  simp only [OpcodeRow.Matches, Instr.row, encode, reqWord_and_mask, t]; rfl

/-- IO.RD.W. -/
theorem ioRdW (k : Kind) (a : Word) : Statement (.ioRdW k a) := by
  intro h
  have t := top_bits a _ (target_region rfl h) 7#3 (by decide)
  simp only [OpcodeRow.Matches, Instr.row, encode, reqWord_and_mask, t]; rfl

/-- IO.RD.L. -/
theorem ioRdL (k : Kind) (a : Word) : Statement (.ioRdL k a) := by
  intro h
  have t := top_bits a _ (target_region rfl h) 7#3 (by decide)
  simp only [OpcodeRow.Matches, Instr.row, encode, reqWord_and_mask, t]; rfl

/-- IO.WR.B. -/
theorem ioWrB (a d : Word) : Statement (.ioWrB a d) := by
  intro h
  have t := top_bits a _ (target_region rfl h) 7#3 (by decide)
  simp only [OpcodeRow.Matches, Instr.row, encode, reqWord_and_mask, t]; rfl

/-- IO.WR.W. -/
theorem ioWrW (a d : Word) : Statement (.ioWrW a d) := by
  intro h
  have t := top_bits a _ (target_region rfl h) 7#3 (by decide)
  simp only [OpcodeRow.Matches, Instr.row, encode, reqWord_and_mask, t]; rfl

/-- IO.WR.L. -/
theorem ioWrL (a d : Word) : Statement (.ioWrL a d) := by
  intro h
  have t := top_bits a _ (target_region rfl h) 7#3 (by decide)
  simp only [OpcodeRow.Matches, Instr.row, encode, reqWord_and_mask, t]; rfl

/-- UNM.RD.B. -/
theorem unmRdB (k : Kind) (a : Word) : Statement (.unmRdB k a) := by
  intro h
  have t := unmapped_top a (target_region rfl h)
  simp only [OpcodeRow.Matches, Instr.row, encode, reqWord_and_mask_unmapped, t]; rfl

/-- UNM.RD.W. -/
theorem unmRdW (k : Kind) (a : Word) : Statement (.unmRdW k a) := by
  intro h
  have t := unmapped_top a (target_region rfl h)
  simp only [OpcodeRow.Matches, Instr.row, encode, reqWord_and_mask_unmapped, t]; rfl

/-- UNM.RD.L. -/
theorem unmRdL (k : Kind) (a : Word) : Statement (.unmRdL k a) := by
  intro h
  have t := unmapped_top a (target_region rfl h)
  simp only [OpcodeRow.Matches, Instr.row, encode, reqWord_and_mask_unmapped, t]; rfl

/-- UNM.WR.B. -/
theorem unmWrB (a d : Word) : Statement (.unmWrB a d) := by
  intro h
  have t := unmapped_top a (target_region rfl h)
  simp only [OpcodeRow.Matches, Instr.row, encode, reqWord_and_mask_unmapped, t]; rfl

/-- UNM.WR.W. -/
theorem unmWrW (a d : Word) : Statement (.unmWrW a d) := by
  intro h
  have t := unmapped_top a (target_region rfl h)
  simp only [OpcodeRow.Matches, Instr.row, encode, reqWord_and_mask_unmapped, t]; rfl

/-- UNM.WR.L. -/
theorem unmWrL (a d : Word) : Statement (.unmWrL a d) := by
  intro h
  have t := unmapped_top a (target_region rfl h)
  simp only [OpcodeRow.Matches, Instr.row, encode, reqWord_and_mask_unmapped, t]; rfl

/-- PRG.WR.L. -/
theorem prgWrL (a d : Word) : Statement (.prgWrL a d) := by
  intro h
  have t := top_bits a _ (target_region rfl h) 2#3 (by decide)
  simp only [OpcodeRow.Matches, Instr.row, encode, reqWord_and_mask, t]; rfl

/-- AA.RD.L. -/
theorem aaRdL (k : Kind) (a : Word) : Statement (.aaRdL k a) := by
  intro h
  have t := top_bits a _ (target_region rfl h) 3#3 (by decide)
  simp only [OpcodeRow.Matches, Instr.row, encode, reqWord_and_mask, t]; rfl

/-- AA.WR.L. -/
theorem aaWrL (a d : Word) : Statement (.aaWrL a d) := by
  intro h
  have t := top_bits a _ (target_region rfl h) 3#3 (by decide)
  simp only [OpcodeRow.Matches, Instr.row, encode, reqWord_and_mask, t]; rfl

/-- DA.RD.B. -/
theorem daRdB (k : Kind) (a : Word) : Statement (.daRdB k a) := by
  intro h
  have t := top_bits a _ (target_region rfl h) 6#3 (by decide)
  simp only [OpcodeRow.Matches, Instr.row, encode, reqWord_and_mask, t]; rfl

/-- DA.RD.W. -/
theorem daRdW (k : Kind) (a : Word) : Statement (.daRdW k a) := by
  intro h
  have t := top_bits a _ (target_region rfl h) 6#3 (by decide)
  simp only [OpcodeRow.Matches, Instr.row, encode, reqWord_and_mask, t]; rfl

/-- DA.RD.L. -/
theorem daRdL (k : Kind) (a : Word) : Statement (.daRdL k a) := by
  intro h
  have t := top_bits a _ (target_region rfl h) 6#3 (by decide)
  simp only [OpcodeRow.Matches, Instr.row, encode, reqWord_and_mask, t]; rfl

/-- DA.WR.B. -/
theorem daWrB (a d : Word) : Statement (.daWrB a d) := by
  intro h
  have t := top_bits a _ (target_region rfl h) 6#3 (by decide)
  simp only [OpcodeRow.Matches, Instr.row, encode, reqWord_and_mask, t]; rfl

/-- DA.WR.W. -/
theorem daWrW (a d : Word) : Statement (.daWrW a d) := by
  intro h
  have t := top_bits a _ (target_region rfl h) 6#3 (by decide)
  simp only [OpcodeRow.Matches, Instr.row, encode, reqWord_and_mask, t]; rfl

/-- DA.WR.L. -/
theorem daWrL (a d : Word) : Statement (.daWrL a d) := by
  intro h
  have t := top_bits a _ (target_region rfl h) 6#3 (by decide)
  simp only [OpcodeRow.Matches, Instr.row, encode, reqWord_and_mask, t]; rfl

/-- RESET. -/
theorem reset : Statement (.reset) := by
  intro _; simp only [OpcodeRow.Matches, Instr.row, encode]; rfl

/-- ENABLE. -/
theorem enable : Statement (.enable) := by
  intro _; simp only [OpcodeRow.Matches, Instr.row, encode]; rfl

/-- DISABLE. -/
theorem disable : Statement (.disable) := by
  intro _; simp only [OpcodeRow.Matches, Instr.row, encode]; rfl

/-- SETREPL. -/
theorem setrepl (d : Word) : Statement (.setrepl d) := by
  intro _; simp only [OpcodeRow.Matches, Instr.row, encode]; rfl

end Sys2Proof.Laws.RowMatch
end

