-- ==== Sys2Proof/Tests/Slice0.lean ====
section
/-! SUPPORT. Tests. Expected values are hand-copied from spec/95_test_vectors.md (named V-..., P...) and from the
encodings of spec/30_encoding.md R111, R112 and R120; then, for every statement with hypotheses, a state and
operands that meet them together. -/

namespace Sys2Proof.Tests

open Sys2Proof Sys2Proof.Machine

/-! Well-formedness: each region's check refuses an address of another region (R116, R120). -/

theorem test_wf_use : ¬WellFormed defaultRegionMap (.useRdB .data 0x20000000) := by decide

theorem test_wf_through : ¬WellFormed defaultRegionMap (.thrWrL 0x00000000 0) := by decide

theorem test_wf_io : ¬WellFormed defaultRegionMap (.ioRdW .data 0xDFFFFFFE) := by decide

theorem test_wf_unmapped : ¬WellFormed defaultRegionMap (.unmWrB 0xC0000000 0) := by decide

theorem test_wf_purge : ¬WellFormed defaultRegionMap (.prgWrL 0x3FFFFFFC 0) := by decide

theorem test_wf_address_array : ¬WellFormed defaultRegionMap (.aaWrL 0x80000000 0) := by decide

theorem test_wf_data_array : ¬WellFormed defaultRegionMap (.daRdL .data 0xE0000000) := by decide

/-! Decoding: one word for every command, written from the fields C W SZ K (the two top digits) and A. -/

/-- What a word decodes to under the default region map. -/
def dec (q : CmdWord) (d : Word) : Except InvalidReason Instr := decode defaultRegionMap q d

theorem test_decode_use :
    dec 0x0000001005#37 0 = .ok (.useRdB .data 0x00001005) ∧ dec 0x0300001000#37 0 = .ok (.useRdW .instruction 0x00001000) ∧
    dec 0x041FFFFFFC#37 0 = .ok (.useRdL .data 0x1FFFFFFC) ∧ dec 0x0800000000#37 0xAB = .ok (.useWrB 0 0xAB) ∧
    dec 0x0A00002002#37 0xBEEF = .ok (.useWrW 0x00002002 0xBEEF) ∧
    dec 0x0C00001008#37 0xCAFEBABE = .ok (.useWrL 0x00001008 0xCAFEBABE) := by
  refine ⟨?_, ?_, ?_, ?_, ?_, ?_⟩ <;> rfl

theorem test_decode_through :
    dec 0x0020001004#37 0 = .ok (.thrRdB .data 0x20001004) ∧ dec 0x0220001007#37 0 = .ok (.thrRdW .data 0x20001007) ∧
    dec 0x0520001003#37 0 = .ok (.thrRdL .instruction 0x20001003) ∧ dec 0x0820000000#37 1 = .ok (.thrWrB 0x20000000 1) ∧
    dec 0x0A3FFFFFFE#37 2 = .ok (.thrWrW 0x3FFFFFFE 2) ∧
    dec 0x0C20001000#37 0xDEADBEEF = .ok (.thrWrL 0x20001000 0xDEADBEEF) := by
  refine ⟨?_, ?_, ?_, ?_, ?_, ?_⟩ <;> rfl

theorem test_decode_io :
    dec 0x00E0000000#37 0 = .ok (.ioRdB .data 0xE0000000) ∧ dec 0x02FFFFFFFE#37 0 = .ok (.ioRdW .data 0xFFFFFFFE) ∧
    dec 0x04FFFFFE00#37 0 = .ok (.ioRdL .data 0xFFFFFE00) ∧ dec 0x08FFFFFE10#37 0x5A = .ok (.ioWrB 0xFFFFFE10 0x5A) ∧
    dec 0x0AE0000002#37 3 = .ok (.ioWrW 0xE0000002 3) ∧ dec 0x0CE0000004#37 4 = .ok (.ioWrL 0xE0000004 4) := by
  refine ⟨?_, ?_, ?_, ?_, ?_, ?_⟩ <;> rfl

theorem test_decode_unmapped :
    dec 0x0080000000#37 0 = .ok (.unmRdB .data 0x80000000) ∧ dec 0x02BFFFFFFE#37 0 = .ok (.unmRdW .data 0xBFFFFFFE) ∧
    dec 0x0480001004#37 0 = .ok (.unmRdL .data 0x80001004) ∧ dec 0x08A0000001#37 5 = .ok (.unmWrB 0xA0000001 5) ∧
    dec 0x0AA0001001#37 0xABCD = .ok (.unmWrW 0xA0001001 0xABCD) ∧ dec 0x0C9FFFFFFC#37 6 = .ok (.unmWrL 0x9FFFFFFC 6) := by
  refine ⟨?_, ?_, ?_, ?_, ?_, ?_⟩ <;> rfl

theorem test_decode_arrays :
    dec 0x0C40003010#37 0 = .ok (.prgWrL 0x40003010 0) ∧ dec 0x0460000010#37 0 = .ok (.aaRdL .data 0x60000010) ∧
    dec 0x0C60000010#37 0x3002 = .ok (.aaWrL 0x60000010 0x3002) ∧ dec 0x00C0000015#37 0 = .ok (.daRdB .data 0xC0000015) ∧
    dec 0x02DFFFFC0B#37 0 = .ok (.daRdW .data 0xDFFFFC0B) ∧ dec 0x04C0000C07#37 0 = .ok (.daRdL .data 0xC0000C07) ∧
    dec 0x08C0000C05#37 0x99 = .ok (.daWrB 0xC0000C05 0x99) ∧ dec 0x0AC0000812#37 0xABCD = .ok (.daWrW 0xC0000812 0xABCD) ∧
    dec 0x0CC0000010#37 0xA0A1A2A3 = .ok (.daWrL 0xC0000010 0xA0A1A2A3) := by
  refine ⟨?_, ?_, ?_, ?_, ?_, ?_, ?_, ?_, ?_⟩ <;> rfl

/-- The last two words have ignored bits set (R117). -/
theorem test_decode_control :
    dec 0x1000000000#37 0 = .ok .reset ∧ dec 0x1100000000#37 0 = .ok .enable ∧ dec 0x1200000000#37 0 = .ok .disable ∧
    dec 0x1300000000#37 0x63F = .ok (.setrepl 0x63F) ∧ dec 0x13FFFFFFFF#37 0x63F = .ok (.setrepl 0x63F) ∧
    dec 0x0D40003010#37 7 = .ok (.prgWrL 0x40003010 7) := by
  refine ⟨?_, ?_, ?_, ?_, ?_, ?_⟩ <;> rfl

/-- The boundary words of the four invalid reasons (R117; V-DEC-1). -/
theorem test_decode_invalid :
    dec 0x1400000000#37 0 = .error .reservedCommand ∧ dec 0x1FFFFFFFFF#37 0 = .error .reservedCommand ∧
    dec 0x0600001000#37 0 = .error .reservedSize ∧ dec 0x0E40000000#37 0 = .error .reservedSize ∧
    dec 0x0440000000#37 0 = .error .purgeWidth ∧ dec 0x0A40000000#37 0 = .error .purgeWidth ∧
    dec 0x0260000002#37 0 = .error .addressArrayWidth ∧ dec 0x0860000000#37 0 = .error .addressArrayWidth := by
  refine ⟨?_, ?_, ?_, ?_, ?_, ?_, ?_, ?_⟩ <;> rfl

/-- The frame of a command: bits 39:37 do not exist, the operand stands in bits 71:40 (log 11). -/
theorem test_decode_frame :
    decodeTableWord 40 0x0C40003010 = some (.prgWrL 0x40003010 0) ∧
    decodeTableWord 72 0x00000007_0C40003010 = some (.prgWrL 0x40003010 7) ∧
    decodeTableWord 40 0x2000000000 = none ∧ decodeTableWord 40 0x1400000000 = none := by
  refine ⟨?_, ?_, ?_, ?_⟩ <;> rfl

/-! The assembler syntax (R121, R122). -/

theorem test_asm_request :
    parseLine "RD.B D, 0x00001005 ; a comment".toList = some (some (.rd .byte .data 0x1005)) ∧
    parseLine "WR.L 0x40000010, 0x0".toList = some (some (.wr .long 0x40000010 0)) ∧
    parseLine "RD.B X, 0x0".toList = none := by decide

theorem test_asm_mnemonic :
    parseLine "PRG.WR.L 0x40000010, 0x0".toList = some (some (.wr .long 0x40000010 0)) ∧
    parseLine "PRG.WR.L 0x00000010, 0x0".toList = none ∧
    parseLine "SETREPL 0x00000401".toList = some (some (.setrepl 0x401)) := by decide

theorem test_asm_number :
    parseNumber 32 "0xCAFEbabe".toList = some 0xCAFEBABE ∧ parseNumber 32 "0x0000000G".toList = none ∧
    parseNumber 32 "0x".toList = none := by decide

theorem test_asm_pseudo :
    assemble (.purge 0x3010) = (0x0C40003010#37, 0) ∧ assemble (.ifetch 0x1000) = (0x0300001000#37, 0) ∧
    assemble (.aaread 1) = (0x0460000010#37, 0) ∧ assemble (.daread .byte 0 1 5) = (0x00C0000015#37, 0) := by decide

/-! The fixture: spec/95_test_vectors.md F1 after RESET and ENABLE, with named costs. -/

/-- The default parameters with HIT_COST 1 and ARRAY_COST 3. -/
def costed : Params := { defaultParams with hitCost := 1, arrayCost := 3 }

/-- F1's start state. -/
def f1 : State := { State.reset with enabled := true, cfgCacheEnable := true, params := costed }

/-- F1 after `RD.B D, 0x00001005` (V-MISS-1), nothing put out yet. -/
def filled : State :=
  (((((f1.setTag 0 3 0x00001002).setLru 0 0x0B).lineWrite 0 3 0 .long 0x10203040).lineWrite 0 3 4 .long
    0x14243444).lineWrite 0 3 8 .long 0x18283848).lineWrite 0 3 12 .long 0x1C2C3C4C

/-- The bus answers listed next. -/
def State.bus (s : State) (l : List BusAnswer) : State := { s with busAnswers := l }

/-- An answer with its cost. -/
def ok (v : Word) (c : Nat) : BusAnswer := .done v (some c)

/-- F1's four long reads of a refill of 0x00001000 for an access at offset 4 to 7. -/
def chunksAt4 : List BusAnswer := [ok 0x18283848 2, ok 0x1C2C3C4C 2, ok 0x10203040 2, ok 0x14243444 2]

/-- The state a command leaves. -/
def ran (i : Instr) (s : State) : State :=
  match exec i s with
  | .next t => t
  | _ => s

/-! The tables (R37, R38). -/

/-- V-LRU-2. -/
theorem test_plru_update :
    plruUpdate costed 0x0B 0 = 0x03 ∧ plruUpdate costed 0x0B 1 = 0x29 ∧ plruUpdate costed 0x0B 2 = 0x1E ∧
    plruUpdate costed 0x0B 3 = 0x0B ∧ plruUpdate costed 0x2A 2 = 0x3E ∧ plruUpdate costed 0x3F 0 = 0x07 ∧
    costed.victimTable[0x2A] = none ∧ costed.victimTable[0x1E] = some 1 := by decide

/-- The LRU state after uses of four ways in order. -/
def uses (l : LruBits) (ws : List Way) : LruBits := ws.foldl (plruUpdate costed) l

/-- V-LRU-3: three of its orders of use, from a degenerate state. -/
theorem test_plru_orders :
    uses 0x2A [3, 2, 1, 0] = 0x00 ∧ uses 0x2A [1, 3, 0, 2] = 0x16 ∧ uses 0x2A [2, 0, 1, 3] = 0x2B := by decide

/-- V-COST-1. -/
theorem test_refill_cost :
    refillCost 0 = 0 ∧ refillCost 4 = 8 ∧ refillCost 60 = 120 ∧ refillCost 64 = 128 ∧ refillCost 160 = 128 := by decide

/-! The Use region. -/

/-- V-MISS-1. -/
theorem test_use_rd_b_refill :
    let t := ran (.useRdB .data 0x1005) (State.bus f1 chunksAt4)
    t.trace = [.busRead 0x1008 .long (ok 0x18283848 2), .busRead 0x100C .long (ok 0x1C2C3C4C 2),
      .busRead 0x1000 .long (ok 0x10203040 2), .busRead 0x1004 .long (ok 0x14243444 2),
      .response (some 0x24) 16] ∧
    t.tagAt 0 3 = 0x00001002 ∧ t.lruAt 0 = 0x0B ∧ t.lines = filled.lines := by decide

/-- V-LRU-4. -/
theorem test_use_rd_b_no_victim :
    let t := ran (.useRdB .data 0x1005) (State.bus (f1.setLru 0 0x2A) [ok 0x24 1])
    t.trace = [.busRead 0x1005 .byte (ok 0x24 1), .response (some 0x24) 1] ∧ t.tags = f1.tags ∧
    t.lruAt 0 = 0x2A := by decide

/-- V-HIT-2. -/
theorem test_use_rd_w_hit :
    (ran (.useRdW .data 0x100B) filled).trace =
      [.diag (.misaligned 0x100B .word), .response (some 0x3848) 1] := by decide

/-- P6 step 5: an instruction fetch with repl_bias[1] = 1 takes way 0 | 1. -/
theorem test_use_rd_w_bias :
    let s := State.bus ((f1.setRepl 0x3F 2 1).setLru 0 0x38) [ok 0x14243444 2, ok 0x18283848 2, ok 0x1C2C3C4C 2, ok 0x10203040 2]
    let t := ran (.useRdW .instruction 0x1000) s
    t.tagAt 0 1 = 0x00001002 ∧ t.trace.getLast? = some (.response (some 0x1020) 16) := by decide

/-- V-HIT-4, with the long at the misaligned 0x00001007: way 3 is checked first. -/
theorem test_use_rd_l_duplicate :
    let t := ran (.useRdL .data 0x1007) (filled.setTag 0 1 0x00001002)
    t.trace = [.diag (.misaligned 0x1007 .long), .response (some 0x14243444) 1] ∧ t.lruAt 0 = 0x0B := by decide

/-- V-MISS-3. -/
theorem test_use_rd_l_uncached :
    let t := ran (.useRdL .data 0x1000) (State.bus (filled.setEnabled false) [ok 0x10203040 2])
    t.trace = [.busRead 0x1000 .long (ok 0x10203040 2), .response (some 0x10203040) 2] ∧
    t.tags = filled.tags ∧ t.lru = filled.lru := by decide

/-- V-WR-1. -/
theorem test_use_wr_b_hit :
    let t := ran (.useWrB 0x1001 0xAA) (State.bus filled [ok 0 1])
    t.lineRead 0 3 0 .long = 0x10AA3040 ∧ t.lruAt 0 = 0x0B ∧
    t.trace = [.busWrite 0x1001 .byte 0xAA (ok 0 1), .response none 1] := by decide

/-- V-WR-4: the LRU state of a write hit, with and without the parameter. -/
theorem test_use_wr_b_lru :
    let s := State.bus (filled.setLru 0 0x1E) [ok 0 1]
    (ran (.useWrB 0x1001 0x01) s).lruAt 0 = 0x1F ∧
    (ran (.useWrB 0x1001 0x01) { s with params := { costed with writeHitUpdatesLru := false } }).lruAt 0 = 0x1E := by
  decide

/-- V-WR-2. -/
theorem test_use_wr_w_hit :
    let t := ran (.useWrW 0x1003 0x1234BEEF) (State.bus filled [ok 0 1])
    t.lineRead 0 3 0 .long = 0x1020BEEF ∧
    t.trace = [.diag (.misaligned 0x1003 .word), .busWrite 0x1002 .word 0xBEEF (ok 0 1), .response none 1] := by
  decide

/-- V-WR-3. -/
theorem test_use_wr_l_miss :
    let t := ran (.useWrL 0x2000 0xCAFEBABE) (State.bus filled [ok 0 2])
    t.tags = filled.tags ∧ t.lru = filled.lru ∧ t.lines = filled.lines ∧
    t.trace = [.busWrite 0x2000 .long 0xCAFEBABE (ok 0 2), .response none 2] := by decide

/-- V-WR-5: a write while disabled leaves the line stale. -/
theorem test_use_wr_l_uncached :
    (ran (.useWrL 0x1000 0x99999999) (State.bus (filled.setEnabled false) [ok 0 2])).lineRead 0 3 0 .long = 0x10203040 := by
  decide

/-- V-COH-1. -/
theorem test_coherency_mismatch :
    let s := State.bus (filled.setLineByte 0 3 5 0x99) [ok 0x24 1]
    (ran (.useRdB .data 0x1005) { s with params := { costed with coherencyCheck := true } }).trace =
      [.busRead 0x1005 .byte (ok 0x24 1), .diag (.coherencyMismatch 0x1005 .byte 0x99 0x24),
        .response (some 0x99) 1] := by decide

/-- R293: the second chunk fails; the tag and the first chunk stay. -/
theorem test_refill_bus_fault :
    let t := ran (.useRdB .data 0x1005) (State.bus f1 [ok 0x18283848 2, .fatal])
    t.faulted = some (.busFault 0x100C .long) ∧ t.tagAt 0 3 = 0x00001002 ∧ t.lineRead 0 3 8 .long = 0x18283848 ∧
    t.lineRead 0 3 12 .long = 0 := by decide

/-! Pass-through (V-THR-1). -/

theorem test_thr_rd_b : (ran (.thrRdB .data 0x20001004) (State.bus f1 [ok 0x14 1])).trace =
    [.busRead 0x20001004 .byte (ok 0x14 1), .response (some 0x14) 1] := by decide

theorem test_thr_rd_w : (ran (.thrRdW .data 0x20001007) (State.bus f1 [ok 0x3444 1])).trace =
    [.diag (.misaligned 0x20001007 .word), .busRead 0x20001006 .word (ok 0x3444 1), .response (some 0x3444) 1] := by
  decide

/-- V-THR-2: no hit although the Use alias is cached. -/
theorem test_thr_rd_l : (ran (.thrRdL .data 0x20001000) (State.bus filled [ok 0x10203040 2])).trace =
    [.busRead 0x20001000 .long (ok 0x10203040 2), .response (some 0x10203040) 2] := by decide

/-- P4 step 4: the cached copy stays stale. -/
theorem test_thr_wr_l :
    let t := ran (.thrWrL 0x20001000 0xDEADBEEF) (State.bus filled [ok 0 2])
    t.trace = [.busWrite 0x20001000 .long 0xDEADBEEF (ok 0 2), .response none 2] ∧
    t.lineRead 0 3 0 .long = 0x10203040 := by decide

theorem test_io_wr_b : (ran (.ioWrB 0xFFFFFE10 0x5A) (State.bus f1 [ok 0 1])).trace =
    [.busWrite 0xFFFFFE10 .byte 0x5A (ok 0 1), .response none 1] := by decide

/-- A bus that reports no cost counts 0 (R72). -/
theorem test_io_rd_b_no_cost : (ran (.ioRdB .data 0xFFFFFE10) (State.bus f1 [.done 0x15A none])).trace =
    [.busRead 0xFFFFFE10 .byte (.done 0x15A none), .response (some 0x5A) 0] := by decide

theorem test_unm_rd_l : (ran (.unmRdL .data 0x80001004) (State.bus f1 [ok 0x14243444 2])).trace =
    [.busRead 0x80001004 .long (ok 0x14243444 2), .response (some 0x14243444) 2] := by decide

theorem test_unm_wr_w : (ran (.unmWrW 0xA0001001 0xABCD) (State.bus f1 [ok 0 1])).trace =
    [.diag (.misaligned 0xA0001001 .word), .busWrite 0xA0001000 .word 0xABCD (ok 0 1), .response none 1] := by decide

/-! Purge. -/

/-- V-PRG-1, V-PRG-3. -/
theorem test_prg_match :
    let t := ran (.prgWrL 0x40001003 0) filled
    t.tagAt 0 3 = 0x00001000 ∧ t.lruAt 0 = 0x0B ∧ t.lines = filled.lines ∧
    t.trace = [.diag (.misaligned 0x40001003 .long), .response none 3] := by decide

/-- V-PRG-2 and V-PRG-4. -/
theorem test_prg_none_and_two :
    (ran (.prgWrL 0x40001400 0) filled).tags = filled.tags ∧
    (ran (.prgWrL 0x40001000 0) (filled.setTag 0 1 0x00001002)).tagAt 0 1 = 0x00001000 := by decide

/-! The array windows. -/

/-- V-AA-1. -/
theorem test_aa_rd_l :
    (ran (.aaRdL .data 0x7FFFFC00) { filled with aaWay := 3 }).trace = [.response (some 0x000010B2) 3] ∧
    (ran (.aaRdL .data 0x60000000) filled).trace = [.response (some 0x000000B0) 3] := by decide

/-- V-AA-2. -/
theorem test_aa_wr_l_data :
    let t := ran (.aaWrL 0x60000010 0xE00020F3) { f1 with aaWay := 1 }
    t.tagAt 1 1 = 0x00002002 ∧ t.lruAt 1 = 0x0F ∧ t.trace = [.response none 3] := by decide

/-- V-AA-3. -/
theorem test_aa_wr_l_address :
    let s := { f1 with aaWay := 1 }
    (ran (.aaWrL 0x60002010 0xF2) { s with params := { costed with aaWriteSource := .address } }).tagAt 1 1 = 0x00002002 ∧
    (ran (.aaWrL 0x60002010 0xF2) s).tagAt 1 1 = 0x00000002 := by decide

/-- V-DA-1. -/
theorem test_da_rd :
    (ran (.daRdB .data 0xC0000C05) filled).trace = [.response (some 0x24) 3] ∧
    (ran (.daRdW .data 0xC0000C0B) filled).trace = [.diag (.misaligned 0xC0000C0B .word), .response (some 0x3848) 3] ∧
    (ran (.daRdL .data 0xDFFFFC04) filled).trace = [.response (some 0x14243444) 3] := by decide

/-- V-DA-2. -/
theorem test_da_wr :
    (ran (.daWrB 0xC0000C05 0x99) filled).lineByte 0 3 5 = 0x99 ∧
    (ran (.daWrW 0xC0000812 0xABCD) filled).lineRead 1 2 0 .long = 0x0000ABCD ∧
    (ran (.daWrL 0xC00003FC 0x01020304) filled).lineByte 63 0 15 = 0x04 := by decide

/-! Control. -/

/-- V-CTL-1. -/
theorem test_reset :
    let t := ran .reset (filled.setRepl 1 2 3)
    t.tags = State.reset.tags ∧ t.lines = [] ∧ t.lruAt 0 = 0 ∧ t.enabled = false ∧ t.replMask = 0x3F ∧
    t.replBiasInstr = 0 ∧ t.trace = [.response none 0] := by decide

/-- V-CTL-2. -/
theorem test_enable_disable :
    (ran .enable f1).enabled = true ∧ (ran .disable filled).enabled = false ∧
    (ran .disable filled).tags = filled.tags := by decide

/-- V-CTL-3. -/
theorem test_setrepl :
    let t := ran (.setrepl 0x00000401) f1
    let u := ran (.setrepl 0xFFFFF0C0) f1
    (t.replMask, t.replBiasData, t.replBiasInstr) = (0x01, 0, 1) ∧
    (u.replMask, u.replBiasData, u.replBiasInstr) = (0x00, 0, 0) := by decide

/-! Steps. -/

/-- A command with the inputs of the fixture. -/
def req (q : CmdWord) (d : Word) : Request := ⟨q, d, true, 3⟩

/-- The state a step leaves. -/
def stepped (s : State) : State :=
  match step s with
  | .next t => t
  | _ => s

/-- P1 step 2: from RESET the write goes to the bus only. -/
theorem test_step_p1 :
    (stepped { State.reset with requests := [req 0x0800000000#37 0xAB], busAnswers := [ok 0 1] }).trace =
      [.busWrite 0 .byte 0xAB (ok 0 1), .response none 1] := by decide

/-- V-PRG-6: an invalid width does nothing but fault, and no later command takes a step. -/
theorem test_step_invalid :
    let t := stepped { filled with requests := [req 0x0440000000#37 5, req 0x1000000000#37 0] }
    t.faulted = some (.invalidRequest .purgeWidth 0x0440000000#37 5) ∧ t.tags = filled.tags ∧ t.trace = [] ∧
    stepped t = t := by decide

/-- A placed word is the next command to run, from the state after reset. -/
theorem test_with_fetch_word : (stepped (State.reset.withFetchWord 40 0x1100000000)).enabled = true := by decide

/-- Two processors: a step of the second leaves the first as it was. -/
theorem test_processors :
    stepProcessor 1 [filled, { f1 with requests := [req 0x1200000000#37 0] }] =
      [filled, ran .disable (f1.take (req 0x1200000000#37 0) [])] := by decide

/-- The storage after reset is in canonical form. -/
theorem test_reset_lines : Memory.wf State.reset.lines = true := by decide

/-! A state and operands that meet the hypotheses of each statement that has some. Where a statement speaks of the
next state, `ran` names it. -/

theorem exec_ran (i : Instr) (s : State) : exec i s = .next (ran i s) := by
  unfold ran; cases i <;> rfl

/-- The parameters with the coherency check on. -/
def checked : Params := { costed with coherencyCheck := true }

/-- The parameters with a write hit that leaves the LRU state. -/
def unmarked : Params := { costed with writeHitUpdatesLru := false }

/-- The values and costs of `chunksAt4`, by chunk. -/
def v4 (i : Nat) : Word := [0x18283848#32, 0x1C2C3C4C, 0x10203040, 0x14243444].getD i 0
def c4 (_ : Nat) : Option Nat := some 2

theorem filled_hits : HitsWay filled (align .byte 0x1001) 3 := State.lookup_eq_some.mp (by decide)

theorem filled_misses : Misses filled (align .long 0x2000) := State.lookup_eq_none.mp (by decide)

theorem filled_wf : Memory.wf filled.lines = true := by decide

/-- The bus answers and the parameters are not looked up. -/
theorem hits_bus {s : State} {a : Word} {w : Way} (l : List BusAnswer) (h : HitsWay s a w) :
    HitsWay (State.bus s l) a w := h

theorem hits_params {s : State} {a : Word} {w : Way} (p : Params) (h : HitsWay s a w) :
    HitsWay { s with params := p } a w := h

theorem misses_bus {s : State} {a : Word} (l : List BusAnswer) (h : Misses s a) : Misses (State.bus s l) a := h

/-- A refill of way 3, on any listed answers. -/
theorem f1_refills (l : List BusAnswer) : RefillsWay (State.bus f1 l) (align .byte 0x1005) .data 3 where
  cfg := rfl
  enabled := rfl
  miss := by
    intro w
    show f1.tagAt (setOfAddr (align .byte 0x1005)) w ≠ formTag (align .byte 0x1005)
    revert w; decide
  victim := by
    refine ⟨3, ?_, ?_⟩
    · show victimEntry f1 (align .byte 0x1005) = some 3
      decide
    · show 3#2 = 3#2 ||| f1.replBias .data
      decide

theorem f1_answers : ∀ i < 4, (State.bus f1 chunksAt4).answerAt i (chunkAddr (align .byte 0x1005) i) .long =
    .done (v4 i) (c4 i) := by decide

theorem witness_round_trip : WellFormed defaultRegionMap (.daWrL 0xDFFFFFFF 5) ∧
    WellFormed (Vector.replicate 8 .unmapped) (.unmRdB .data 0) := by decide

theorem witness_keeps_every_bit : decode defaultRegionMap 0x09FFFFFE10#37 0x5A = .ok (.ioWrB 0xFFFFFE10 0x5A) := rfl

theorem witness_ignored_bits :
    (decode defaultRegionMap 0x0C40003010#37 7 = .ok (.prgWrL 0x40003010 7) ∧
      0x0D40003010#37 &&& ~~~(ignoredBits (.prgWrL 0x40003010 7)) =
        0x0C40003010#37 &&& ~~~(ignoredBits (.prgWrL 0x40003010 7))) ∧
    (decode defaultRegionMap 0x1300000000#37 7 = .ok (.setrepl 7) ∧
      0x13FFFFFFFF#37 &&& ~~~(ignoredBits (.setrepl 7)) = 0x1300000000#37 &&& ~~~(ignoredBits (.setrepl 7))) :=
  ⟨⟨rfl, by decide⟩, ⟨rfl, by decide⟩⟩

theorem witness_step_runs :
    let s := { filled with requests := [req 0x0000001005#37 0] }
    s.faulted = none ∧ s.requests = req 0x0000001005#37 0 :: [] ∧
      decode s.params.regionMap (req 0x0000001005#37 0).q (req 0x0000001005#37 0).d = .ok (.useRdB .data 0x1005) :=
  ⟨rfl, rfl, rfl⟩

theorem witness_framed : State.reset.faulted = none ∧ State.reset.params.regionMap = defaultRegionMap ∧
    decodeTableWord 72 0x00000007_0C40003010 = some (.prgWrL 0x40003010 7) := ⟨rfl, rfl, rfl⟩

theorem witness_idle : filled.faulted = none ∧ filled.requests = [] := ⟨rfl, rfl⟩

/-- One command for each invalid reason. -/
theorem witness_invalid_request :
    ∀ p ∈ [(req 0x1400000000#37 0, InvalidReason.reservedCommand), (req 0x0600001000#37 0, .reservedSize),
        (req 0x0440000000#37 0, .purgeWidth), (req 0x0260000002#37 0, .addressArrayWidth)],
      let s := { filled with requests := [p.1] }
      s.faulted = none ∧ s.requests = p.1 :: [] ∧ (decode s.params.regionMap p.1.q p.1.d).toOption = none ∧
        (stepped s).faulted = some (.invalidRequest p.2 p.1.q p.1.d) := by decide

theorem witness_fault_is_terminal :
    (filled.raise (.busFault 0 .byte)).faulted = some (.busFault 0 .byte) ∧
    exec .reset (filled.raise (.busFault 0 .byte)) = .next (ran .reset (filled.raise (.busFault 0 .byte))) :=
  ⟨rfl, rfl⟩

theorem witness_valid_request :
    let s := { f1 with requests := [req 0x0000001005#37 0], busAnswers := chunksAt4 }
    s.faulted = none ∧ s.requests = req 0x0000001005#37 0 :: [] ∧
      decode s.params.regionMap (req 0x0000001005#37 0).q 0 = .ok (.useRdB .data 0x1005) ∧
      4 ≤ s.busAnswers.length ∧ .fatal ∉ s.busAnswers := ⟨rfl, rfl, rfl, by decide, by decide⟩

theorem witness_misaligned : align .word 0x1007 ≠ 0x1007 ∧ align .long 0x1006 ≠ 0x1006 ∧
    align .long 0x40001003 ≠ 0x40001003 := by decide

/-- The clause about aligned requests, at a long and at a byte, which every address aligns. -/
theorem witness_aligned : align .long 0x1004 = 0x1004 ∧ align .byte 0x1007 = 0x1007 ∧
    Instr.prgWrL 0x40001000 0 ∈ (if Size.long = .long then [Instr.prgWrL 0x40001000 0] else []) := by decide

/-- Cached: both flags. -/
theorem witness_cached : filled.cfgCacheEnable = true ∧ filled.enabled = true := ⟨rfl, rfl⟩

/-- Uncached by either flag. -/
theorem witness_uncached :
    (let s := State.bus (filled.setEnabled false) [ok 7 1]
     ¬(s.cfgCacheEnable = true ∧ s.enabled = true) ∧ s.nextAnswer (align .byte 0x1000) .byte = .done 7 (some 1)) ∧
    (let s := { State.bus filled [ok 7 1] with cfgCacheEnable := false }
     ¬(s.cfgCacheEnable = true ∧ s.enabled = true) ∧ s.nextAnswer (align .byte 0x1000) .byte = .done 7 (some 1)) := by
  decide

theorem witness_read_hit : filled.cfgCacheEnable = true ∧ filled.enabled = true ∧
    HitsWay filled (align .byte 0x1001) 3 ∧ filled.params.coherencyCheck = false :=
  ⟨rfl, rfl, filled_hits, rfl⟩

/-- The bus agrees with the line, and does not. -/
theorem witness_coherency_check : ∀ b ∈ [0x20#32, 0x21#32],
    let s := State.bus { filled with params := checked } [ok b 1]
    s.cfgCacheEnable = true ∧ s.enabled = true ∧ HitsWay s (align .byte 0x1001) 3 ∧
      s.params.coherencyCheck = true ∧ s.nextAnswer (align .byte 0x1001) .byte = .done b (some 1) := by
  intro b _
  exact ⟨rfl, rfl, hits_bus _ (hits_params _ filled_hits), rfl, rfl⟩

/-- Two runs that differ only in the coherency check: on a hit, and of commands that are no cached read hit (a
refill, and a read while disabled of a line that is held). -/
theorem witness_check_observes :
    (let s := State.bus filled [ok 0x21 1]
     s.cachedEnabled = true ∧ s.lookup (align .byte 0x1001) ≠ none ∧
      s.nextAnswer (align .byte 0x1001) .byte = .done 0x21 (some 1) ∧
      exec (useRd .byte .data 0x1001) (s.withCheck true) = .next (ran (useRd .byte .data 0x1001) (s.withCheck true)) ∧
      exec (useRd .byte .data 0x1001) (s.withCheck false) =
        .next (ran (useRd .byte .data 0x1001) (s.withCheck false))) ∧
    (∀ n k A, Instr.enable = useRd n k A → filled.cachedEnabled = false ∨ filled.lookup (align n A) = none) ∧
    (f1.lookup (align .byte 0x1005) = none ∧ (filled.setEnabled false).cachedEnabled = false) := by
  refine ⟨⟨by decide, by decide, by decide, exec_ran _ _, exec_ran _ _⟩, fun n k A h => ?_, by decide, by decide⟩
  cases n <;> simp [useRd] at h

theorem witness_no_victim :
    let s := State.bus (f1.setLru 0 0x2A) [ok 0x24 1]
    s.cfgCacheEnable = true ∧ s.enabled = true ∧ Misses s (align .byte 0x1005) ∧
      victimEntry s (align .byte 0x1005) = none ∧ s.nextAnswer (align .byte 0x1005) .byte = .done 0x24 (some 1) :=
  ⟨rfl, rfl, State.lookup_eq_none.mp (by decide), by decide, rfl⟩

/-- Also of the refill's cost, its last chunk and the completed line. -/
theorem witness_refill :
    Memory.wf (State.bus f1 chunksAt4).lines = true ∧
    RefillsWay (State.bus f1 chunksAt4) (align .byte 0x1005) .data 3 ∧
    (State.bus f1 chunksAt4).params.coherencyCheck = false ∧
    (∀ i < 4, (State.bus f1 chunksAt4).answerAt i (chunkAddr (align .byte 0x1005) i) .long = .done (v4 i) (c4 i)) ∧
    exec (useRd .byte .data 0x1005) (State.bus f1 chunksAt4) =
      .next (ran (useRd .byte .data 0x1005) (State.bus f1 chunksAt4)) ∧ SameLine 0x1005 0x0000100F :=
  ⟨rfl, f1_refills _, rfl, f1_answers, exec_ran _ _, by decide⟩

/-- Chunk costs of 16 each, the least that reach the cap. -/
theorem witness_refill_cap :
    let s := State.bus f1 [ok 1 16, ok 2 16, ok 3 16, ok 4 16]
    RefillsWay s (align .byte 0x1005) .data 3 ∧
    (∀ i < 4, s.answerAt i (chunkAddr (align .byte 0x1005) i) .long =
      .done ([1#32, 2, 3, 4].getD i 0) (some 16)) ∧
    (∀ i < 4, 16 ≤ ((fun _ => some 16 : Nat → Option Nat) i).getD 0) :=
  ⟨f1_refills _, by decide, by decide⟩

/-- The first and the last chunk fail. -/
theorem witness_refill_stops :
    (RefillsWay (State.bus f1 [.fatal]) (align .byte 0x1005) .data 3 ∧
      (State.bus f1 [.fatal]).answerAt 0 (chunkAddr (align .byte 0x1005) 0) .long = .fatal) ∧
    (let s := State.bus f1 (chunksAt4.take 3 ++ [.fatal])
     Memory.wf s.lines = true ∧ RefillsWay s (align .byte 0x1005) .data 3 ∧
      (∀ i < 3, s.answerAt i (chunkAddr (align .byte 0x1005) i) .long = .done (v4 i) (c4 i)) ∧
      s.answerAt 3 (chunkAddr (align .byte 0x1005) 3) .long = .fatal) :=
  ⟨⟨f1_refills _, rfl⟩, rfl, f1_refills _, by decide, by decide⟩

/-- A write that hits and a write that misses. -/
theorem witness_cached_write :
    let s := State.bus filled [ok 0 1]
    s.cfgCacheEnable = true ∧ s.enabled = true ∧ s.nextAnswer (align .byte 0x1001) .byte = .done 0 (some 1) ∧
      Memory.wf s.lines = true ∧ HitsWay s (align .byte 0x1001) 3 ∧ Misses s (align .long 0x2000) ∧
      s.params.writeHitUpdatesLru = true ∧ s.params.coherencyCheck = false :=
  ⟨rfl, rfl, rfl, filled_wf, hits_bus _ filled_hits, misses_bus _ filled_misses, rfl, rfl⟩

/-- A cached write and a cached read whose one bus call fails, on a hit and on a miss; the write with and without
`WRITE_HIT_UPDATES_LRU`. -/
theorem witness_cached_bus_failure :
    (let s := State.bus filled [.fatal]
     s.cfgCacheEnable = true ∧ s.enabled = true ∧ s.nextAnswer (align .byte 0x1001) .byte = .fatal ∧
      Memory.wf s.lines = true ∧ HitsWay s (align .byte 0x1001) 3 ∧ Misses s (align .long 0x2000) ∧
      s.params.writeHitUpdatesLru = true) ∧
    (let s := State.bus { filled with params := unmarked } [.fatal]
     s.cfgCacheEnable = true ∧ s.enabled = true ∧ s.nextAnswer (align .byte 0x1001) .byte = .fatal ∧
      Memory.wf s.lines = true ∧ HitsWay s (align .byte 0x1001) 3 ∧ s.params.writeHitUpdatesLru = false) ∧
    (let s := State.bus { filled with params := checked } [.fatal]
     s.nextAnswer (align .byte 0x1001) .byte = .fatal ∧ HitsWay s (align .byte 0x1001) 3 ∧
      s.params.coherencyCheck = true) ∧
    (let s := State.bus (f1.setLru 0 0x2A) [.fatal]
     s.nextAnswer (align .byte 0x1005) .byte = .fatal ∧ Misses s (align .byte 0x1005) ∧
      victimEntry s (align .byte 0x1005) = none) :=
  ⟨⟨rfl, rfl, rfl, filled_wf, hits_bus _ filled_hits, misses_bus _ filled_misses, rfl⟩,
    ⟨rfl, rfl, rfl, filled_wf, hits_bus _ (hits_params _ filled_hits), rfl⟩,
    ⟨rfl, hits_bus _ (hits_params _ filled_hits), rfl⟩, ⟨rfl, State.lookup_eq_none.mp (by decide), by decide⟩⟩

/-- Also of the pass-through writes; the second state's bus fails. -/
theorem witness_pass_through :
    (State.bus f1 [ok 0x14 1]).nextAnswer (align .word 0x20001007) .word = .done 0x14 (some 1) ∧
    (State.bus f1 [.fatal]).nextAnswer (align .word 0x20001007) .word = .fatal ∧
    (State.bus (f1.setEnabled false) [.fatal]).cachedEnabled = false ∧
    unmRd .word .data 0x80001007 ∈ passRds .word .data 0x80001007 ∧ thrWr .long 0x20000000 1 ∈ passWrs .long 0x20000000 1 := by
  decide

/-- A purge, an address of its line and one beside it. -/
theorem witness_purged_line : exec (.prgWrL 0x40001000 0) filled = .next (ran (.prgWrL 0x40001000 0) filled) ∧
    SameLine 0x0000100F 0x40001000 ∧ ¬SameLine 0x00001010 0x40001000 := ⟨exec_ran _ _, by decide, by decide⟩

theorem witness_array_read_back :
    let t := ran (.aaWrL 0x60000010 0xE00020F3) filled
    filled.params.aaWriteSource = .data ∧ setOfAddr 0x7FFFFC13#32 = setOfAddr 0x60000010#32 ∧
      exec (.aaWrL 0x60000010 0xE00020F3) filled = .next t ∧
      exec (.aaRdL .data 0x7FFFFC13) t = .next (ran (.aaRdL .data 0x7FFFFC13) t) :=
  ⟨rfl, by decide, exec_ran _ _, exec_ran _ _⟩

/-- The fixed bits of a written tag word are 0; both write sources. -/
theorem witness_address_array :
    (let s := { filled with aaWay := 3 }
     TagWordClean (s.tagAt (setOfAddr 0x60000000) s.aaWay) ∧ s.tagAt (setOfAddr 0x60000000) s.aaWay = 0x00001002) ∧
    costed.aaWriteSource = .data ∧
    ({ costed with aaWriteSource := .address } : Params).aaWriteSource = .address := ⟨by decide, rfl, rfl⟩

/-- The last byte inside the long written. -/
theorem witness_mixed_width :
    let t := ran (.daWrL 0xC0000C04 0x11223344) filled
    Memory.wf filled.lines = true ∧ exec (.daWrL 0xC0000C04 0x11223344) filled = .next t ∧
      exec (daRd .byte .data 0xC0000C07) t = .next (ran (daRd .byte .data 0xC0000C07) t) ∧
      align .long 0xC0000C07 = align .long 0xC0000C04 := ⟨filled_wf, exec_ran _ _, exec_ran _ _, by decide⟩

theorem witness_reset_outcome : (State.reset.setEnabled true).params = defaultParams := rfl

theorem filled_tags (set : SetIdx) (w : Way) : filled.tagAt set w = if set = 0 ∧ w = 3 then 0x00001002 else 0 := by
  simp only [filled, State.lineWrite_tagAt, State.setLru_tagAt, State.tagAt_setTag]
  split <;> simp [f1, State.reset, State.tagAt]

/-- The invariant at a state with a valid line, and a step from it. -/
theorem filled_inv : Inv filled where
  lines := filled_wf
  tags set w := by rw [filled_tags]; split <;> decide
  calls := by simp [filled, f1, State.reset]

theorem inv_inputs {s : State} (r : List Request) (l : List BusAnswer) (h : Inv s) :
    Inv (State.bus { s with requests := r } l) := ⟨h.lines, h.tags, h.calls⟩

/-- `filled` with a write that hits presented. -/
def stepping : State := State.bus { filled with requests := [req 0x0800001001#37 0xAA] } [ok 0 1]

theorem witness_invariant : Inv stepping ∧ (∃ t, step stepping = .next t) ∧ (stepped stepping).lineByte 0 3 1 = 0xAA :=
  ⟨inv_inputs _ _ filled_inv, ⟨_, rfl⟩, by decide⟩

theorem witness_no_duplicates :
    NoDuplicateTags (State.bus f1 chunksAt4) ∧ (∀ A D, Instr.useRdB .data 0x1005 ≠ .aaWrL A D) ∧
    exec (.useRdB .data 0x1005) (State.bus f1 chunksAt4) = .next (ran (.useRdB .data 0x1005) (State.bus f1 chunksAt4)) := by
  refine ⟨fun set w w' _ h => ?_, by simp, exec_ran _ _⟩
  have h0 : (State.bus f1 chunksAt4).tagAt set w = 0 := by simp [State.bus, f1, State.reset, State.tagAt]
  rw [h0] at h; exact absurd h (by decide)

theorem witness_makes_hits :
    let s := State.bus f1 chunksAt4
    exec .reset s = .next (ran .reset s) ∧ exec (useRd .byte .data 0x1005) s = .next (ran (useRd .byte .data 0x1005) s) ∧
      s.lookup 0x1000 = none ∧ (ran (useRd .byte .data 0x1005) s).lookup 0x1000 ≠ none :=
  ⟨rfl, exec_ran _ _, by decide, by decide⟩

/-- Also of the frames of every command: `exec_ran` gives the next state. -/
theorem witness_lru_order :
    DefaultTables f1.params ∧ (∀ set, f1.lruAt set ∈ orderedLru) ∧ f1.replMask = 0x3F#6 ∧
    ([2, 0, 3, 1] : List Way).Nodup ∧ exec (.setrepl 0x3F) f1 = .next (ran (.setrepl 0x3F) f1) ∧
    (ran (.setrepl 0x3F) f1).replMask = 0x3F#6 := by
  refine ⟨⟨rfl, rfl, rfl⟩, fun set => ?_, rfl, by decide, rfl, by decide⟩
  have : f1.lruAt set = 0 := by simp [f1, State.reset, State.lruAt]
  rw [this]; decide

/-- A command outside the Use region and the control commands. -/
theorem witness_enable_flags :
    (∀ n k A, Instr.prgWrL 0x40001000 0 ≠ useRd n k A) ∧ (∀ n A D, Instr.prgWrL 0x40001000 0 ≠ useWr n A D) ∧
    (Instr.prgWrL 0x40001000 0).target ≠ none := by
  refine ⟨fun n k A => ?_, fun n A D => ?_, by decide⟩ <;> cases n <;> simp [useRd, useWr]

/-- The four cases in which the kind does not matter. -/
theorem witness_kind :
    (filled.setEnabled false).cachedEnabled = false ∧ filled.lookup (align .byte 0x1001) ≠ none ∧
    victimEntry (f1.setLru 0 0x2A) (align .byte 0x1005) = none ∧ filled.replBiasData = filled.replBiasInstr := by
  decide

/-- The frames leave RESET, the Use region and the writers of an array out; this command is in none of them. -/
theorem witness_frames :
    exec .enable filled = .next (ran .enable filled) ∧ (∀ D, Instr.enable ≠ .setrepl D) ∧ Instr.enable ≠ .reset ∧
    (∀ n k A, Instr.enable ≠ useRd n k A ∧ Instr.enable ∉ passRds n k A) ∧
    (∀ n A D, Instr.enable ≠ useWr n A D ∧ Instr.enable ∉ passWrs n A D) ∧ (∀ n A D, Instr.enable ≠ daWr n A D) ∧
    (∀ A D, Instr.enable ≠ .prgWrL A D) ∧ (∀ A D, Instr.enable ≠ .aaWrL A D) := by
  refine ⟨rfl, by simp, by simp, fun n k A => ?_, fun n A D => ?_, fun n A D => ?_, by simp, by simp⟩ <;>
    cases n <;> simp [useRd, useWr, daWr, passRds, passWrs, thrRd, ioRd, unmRd, thrWr, ioWr, unmWr]

theorem witness_processors : (0 : Nat) ≠ 1 := by decide

end Sys2Proof.Tests
end

section
/-! The memory family (spec/20_memory.md): alignment (R78) and the independence of processors (R90). -/

namespace Sys2Proof.Machine

/-! What the alignment does to an address (R78). -/

/-- How many low address bits the masking of a size-`n` request clears. -/
def alignBits : Size → Nat
  | .byte => 0
  | .word => 1
  | .long => 2

theorem bytes_eq_two_pow_alignBits (n : Size) : n.bytes = 2 ^ alignBits n := by cases n <;> rfl

/-- The masks of R78 are the shift down and up again. -/
theorem align_eq_shift (n : Size) (a : Word) : align n a = a >>> alignBits n <<< alignBits n := by
  cases n
  · simp [align, alignBits]
  all_goals
    apply BitVec.eq_of_getLsbD_eq; intro i hi
    simp only [align, alignBits, BitVec.getLsbD_and, BitVec.getLsbD_shiftLeft, BitVec.getLsbD_ushiftRight]
    interval_cases i <;> simp

theorem align_toNat (n : Size) (a : Word) : (align n a).toNat = a.toNat / n.bytes * n.bytes := by
  have hle : a.toNat / 2 ^ alignBits n * 2 ^ alignBits n < 2 ^ 32 :=
    lt_of_le_of_lt (Nat.div_mul_le_self _ _) a.isLt
  rw [align_eq_shift, bytes_eq_two_pow_alignBits, BitVec.toNat_shiftLeft, BitVec.toNat_ushiftRight,
    Nat.shiftRight_eq_div_pow, Nat.shiftLeft_eq, Nat.mod_eq_of_lt hle]

theorem regionOf_align (m : RegionMap) (n : Size) (a : Word) : regionOf m (align n a) = regionOf m a := by
  have htop : (align n a).extractLsb' 29 3 = a.extractLsb' 29 3 := by
    cases n
    · rfl
    all_goals
      apply BitVec.eq_of_getLsbD_eq; intro i hi
      simp only [align, BitVec.getLsbD_extractLsb', BitVec.getLsbD_and]
      interval_cases i <;> simp
  simp only [regionOf, htop]

/-! A misaligned request acts as the aligned one after the event. Each operation sees its address only through
`noteAlign n a` and `align n a`. -/

theorem State.noteAlign_aligned {n : Size} {a : Word} (h : align n a = a) (s : State) : s.noteAlign n a = s := by
  simp [State.noteAlign, h]

section
variable {n : Size} {a : Word} (h : align n a ≠ a) (s : State)
include h

theorem State.useRead_misaligned (k : Kind) :
    s.useRead n k a = (s.emit (.diag (.misaligned a n))).useRead n k (align n a) := by
  simp [State.useRead, State.noteAlign_ne h, State.noteAlign_align]

theorem State.useWrite_misaligned (d : Word) :
    s.useWrite n a d = (s.emit (.diag (.misaligned a n))).useWrite n (align n a) d := by
  simp [State.useWrite, State.noteAlign_ne h, State.noteAlign_align]

theorem State.passRead_misaligned :
    s.passRead n a = (s.emit (.diag (.misaligned a n))).passRead n (align n a) := by
  simp [State.passRead, State.noteAlign_ne h, State.noteAlign_align]

theorem State.passWrite_misaligned (d : Word) :
    s.passWrite n a d = (s.emit (.diag (.misaligned a n))).passWrite n (align n a) d := by
  simp [State.passWrite, State.noteAlign_ne h, State.noteAlign_align]

theorem State.dataArrayRead_misaligned :
    s.dataArrayRead n a = (s.emit (.diag (.misaligned a n))).dataArrayRead n (align n a) := by
  simp only [State.dataArrayRead, State.noteAlign_ne h, State.noteAlign_align, align_align]

theorem State.dataArrayWrite_misaligned (d : Word) :
    s.dataArrayWrite n a d = (s.emit (.diag (.misaligned a n))).dataArrayWrite n (align n a) d := by
  simp only [State.dataArrayWrite, State.noteAlign_ne h, State.noteAlign_align, align_align]

end

section
variable {a : Word} (h : align .long a ≠ a) (s : State)
include h

theorem exec_prgWrL_misaligned (d : Word) :
    exec (.prgWrL a d) s = exec (.prgWrL (align .long a) d) (s.emit (.diag (.misaligned a .long))) := by
  simp only [exec, execPrgWrL, State.noteAlign_ne h, State.noteAlign_align, align_align]

theorem exec_aaRdL_misaligned (k : Kind) :
    exec (.aaRdL k a) s = exec (.aaRdL k (align .long a)) (s.emit (.diag (.misaligned a .long))) := by
  simp only [exec, execAaRdL, State.addressArrayRead, State.noteAlign_ne h, State.noteAlign_align, align_align]

theorem exec_aaWrL_misaligned (d : Word) :
    exec (.aaWrL a d) s = exec (.aaWrL (align .long a) d) (s.emit (.diag (.misaligned a .long))) := by
  simp only [exec, execAaWrL, State.addressArrayWrite, State.noteAlign_ne h, State.noteAlign_align, align_align]

end

/-! What an operation puts out besides the alignment event. -/

/-- From `s` to `t` the block puts out events, none of them `Misaligned`. -/
def NoMisalignedBetween (s t : State) : Prop :=
  ∃ es, t.trace = s.trace ++ es ∧ ∀ a n, Event.diag (.misaligned a n) ∉ es

theorem NoMisalignedBetween.of_trace_eq {s t : State} (h : t.trace = s.trace) : NoMisalignedBetween s t :=
  ⟨[], by simp [h], by simp⟩

theorem NoMisalignedBetween.emit {s t : State} (h : NoMisalignedBetween s t) {e : Event}
    (he : ∀ a n, Event.diag (.misaligned a n) ≠ e) : NoMisalignedBetween s (t.emit e) := by
  obtain ⟨es, htrace, hnone⟩ := h
  exact ⟨es ++ [e], by simp [htrace], fun a n => by simp [hnone a n, he a n]⟩

theorem NoMisalignedBetween.respond {s t : State} (h : NoMisalignedBetween s t) (v : Option Word) (c : Nat) :
    NoMisalignedBetween s (t.respond v c) :=
  h.emit (by simp)

/-- A fault raised puts nothing out. -/
theorem NoMisalignedBetween.raise {s t : State} (h : NoMisalignedBetween s t) (f : Fault) :
    NoMisalignedBetween s (t.raise f) := h

/-- One bus read made, whatever the bus answers. -/
theorem State.busReadMade_noMisaligned {s t : State} (h : t.trace = s.trace) (a : Word) (n : Size) (b : BusAnswer) :
    NoMisalignedBetween s (t.countCall.emit (.busRead a n b)) :=
  (NoMisalignedBetween.of_trace_eq (t := t.countCall) h).emit (by simp)

theorem State.busRead_noMisaligned (s : State) (a : Word) (n : Size) : NoMisalignedBetween s (s.busRead a n) := by
  obtain ⟨v, c, -, e⟩ | ⟨-, e⟩ := s.busRead_cases a n <;> rw [e]
  · exact (State.busReadMade_noMisaligned rfl a n _).respond _ _
  · exact (State.busReadMade_noMisaligned rfl a n _).raise _

theorem State.busWrite_noMisaligned (s : State) (a : Word) (n : Size) (d : Word) :
    NoMisalignedBetween s (s.busWrite a n d) := by
  have hmade : ∀ b, NoMisalignedBetween s (s.countCall.emit (.busWrite a n (lowBits n d) b)) := fun b =>
    (NoMisalignedBetween.of_trace_eq (t := s.countCall) rfl).emit (by simp)
  obtain ⟨v, c, -, e⟩ | ⟨-, e⟩ := s.busWrite_cases a n d <;> rw [e]
  · exact (hmade _).respond _ _
  · exact (hmade _).raise _

/-- A read hit puts out its response, and the check's read and mismatch where it is checked. -/
theorem State.readHit_noMisaligned (s : State) (a : Word) (n : Size) (w : Way) :
    NoMisalignedBetween s (s.readHit a n w) := by
  have htouch : (s.touch (setOfAddr a) w).trace = s.trace := rfl
  cases hc : s.params.coherencyCheck with
  | false =>
    rw [State.readHit_unchecked hc]
    exact (NoMisalignedBetween.of_trace_eq htouch).respond _ _
  | true =>
    cases hb : s.nextAnswer a n with
    | done b c =>
      rw [State.readHit_checked hc hb]
      have hread := State.busReadMade_noMisaligned htouch a n (.done b c)
      dsimp only
      split
      · exact hread.respond _ _
      · exact (hread.emit (by simp)).respond _ _
    | fatal =>
      rw [State.readHit_fatal hc hb]
      exact (State.busReadMade_noMisaligned htouch a n .fatal).raise _

theorem Refilled.noMisaligned {a : Word} {w : Way} {j : Nat} {v : Nat → Word} {c : Nat → Option Nat} {s t : State}
    (h : Refilled a w j v c s t) : NoMisalignedBetween s t :=
  ⟨chunkReads a j v c, h.trace, by simp [chunkReads]⟩

/-- A refill puts out its chunk reads, then its response or the failed read. -/
theorem State.refillRead_noMisaligned (s : State) (a : Word) (n : Size) (w : Way) :
    NoMisalignedBetween s (s.refillRead a n w) := by
  obtain ⟨v, c, t, -, ht, e⟩ | ⟨j, v, c, t, -, -, ht, e⟩ := s.refillRead_cases a n w <;> rw [e]
  · exact ht.noMisaligned.respond _ _
  · have hcount : NoMisalignedBetween s t.countCall := ht.noMisaligned
    exact (hcount.emit (by simp)).raise _

theorem State.cachedRead_noMisaligned (s : State) (a : Word) (n : Size) (k : Kind) :
    NoMisalignedBetween s (s.cachedRead a n k) := by
  unfold State.cachedRead
  cases s.lookup a with
  | some w => exact s.readHit_noMisaligned a n w
  | none =>
    cases s.selectVictim (setOfAddr a) k with
    | none => exact s.busRead_noMisaligned a n
    | some w => exact s.refillRead_noMisaligned a n w

theorem State.writeHit_trace (s : State) (a : Word) (n : Size) (w : Way) (d : Word) :
    (s.writeHit a n w d).trace = s.trace := by
  unfold State.writeHit
  split <;> simp

theorem State.cachedWrite_noMisaligned (s : State) (a : Word) (n : Size) (d : Word) :
    NoMisalignedBetween s (s.cachedWrite a n d) := by
  unfold State.cachedWrite
  cases s.lookup a with
  | some w =>
    have hbus := (s.writeHit a n w d).busWrite_noMisaligned a n d
    rwa [NoMisalignedBetween, State.writeHit_trace] at hbus
  | none => exact s.busWrite_noMisaligned a n d

theorem State.purge_noMisaligned (s : State) (a : Word) : NoMisalignedBetween s (s.purge a) := by
  obtain ⟨u, -, hu, e⟩ := s.purge_eq a
  rw [e]
  exact (NoMisalignedBetween.of_trace_eq hu.trace).respond _ _

/-! An aligned request never puts the event out. -/

section
variable {n : Size} {a : Word} (h : align n a = a) (s : State)
include h

theorem State.useRead_noMisaligned (k : Kind) : NoMisalignedBetween s (s.useRead n k a) := by
  simp only [State.useRead, State.noteAlign_aligned h, h]
  split
  · exact s.cachedRead_noMisaligned a n k
  · exact s.busRead_noMisaligned a n

theorem State.useWrite_noMisaligned (d : Word) : NoMisalignedBetween s (s.useWrite n a d) := by
  simp only [State.useWrite, State.noteAlign_aligned h, h]
  split
  · exact s.cachedWrite_noMisaligned a n d
  · exact s.busWrite_noMisaligned a n d

theorem State.passRead_noMisaligned : NoMisalignedBetween s (s.passRead n a) := by
  simp only [State.passRead, State.noteAlign_aligned h, h]
  exact s.busRead_noMisaligned a n

theorem State.passWrite_noMisaligned (d : Word) : NoMisalignedBetween s (s.passWrite n a d) := by
  simp only [State.passWrite, State.noteAlign_aligned h, h]
  exact s.busWrite_noMisaligned a n d

theorem State.dataArrayRead_noMisaligned : NoMisalignedBetween s (s.dataArrayRead n a) := by
  simp only [State.dataArrayRead, State.noteAlign_aligned h]
  exact (NoMisalignedBetween.of_trace_eq rfl).respond _ _

theorem State.dataArrayWrite_noMisaligned (d : Word) : NoMisalignedBetween s (s.dataArrayWrite n a d) := by
  simp only [State.dataArrayWrite, State.noteAlign_aligned h]
  exact (NoMisalignedBetween.of_trace_eq (by simp)).respond _ _

end

section
variable {a : Word} (h : align .long a = a) (s : State)
include h

theorem State.addressArrayRead_noMisaligned : NoMisalignedBetween s (s.addressArrayRead a) := by
  simp only [State.addressArrayRead, State.noteAlign_aligned h]
  exact (NoMisalignedBetween.of_trace_eq rfl).respond _ _

theorem State.addressArrayWrite_noMisaligned (d : Word) : NoMisalignedBetween s (s.addressArrayWrite a d) := by
  simp only [State.addressArrayWrite, State.noteAlign_aligned h]
  exact (NoMisalignedBetween.of_trace_eq rfl).respond _ _

theorem State.alignedPurge_noMisaligned :
    NoMisalignedBetween s ((s.noteAlign .long a).purge (align .long a)) := by
  rw [State.noteAlign_aligned h, h]
  exact s.purge_noMisaligned a

end

/-- Every memory request of size `n` at `a`: the families of R78, and the three long-only commands. -/
theorem exec_aligned_noMisaligned {n : Size} {a : Word} (h : align n a = a) (k : Kind) (d : Word) (s : State) :
    ∀ i ∈ [useRd n k a, thrRd n k a, ioRd n k a, unmRd n k a, daRd n k a, useWr n a d, thrWr n a d, ioWr n a d,
        unmWr n a d, daWr n a d] ++ (if n = .long then [.prgWrL a d, .aaRdL k a, .aaWrL a d] else []),
      ∃ t, exec i s = .next t ∧ NoMisalignedBetween s t := by
  intro i hi
  rcases List.mem_append.mp hi with hsized | hlong
  · simp only [List.mem_cons, List.not_mem_nil, or_false] at hsized
    rcases hsized with rfl | rfl | rfl | rfl | rfl | rfl | rfl | rfl | rfl | rfl
    · exact ⟨_, exec_useRd n k a s, s.useRead_noMisaligned h k⟩
    · exact ⟨_, exec_thrRd n k a s, s.passRead_noMisaligned h⟩
    · exact ⟨_, exec_ioRd n k a s, s.passRead_noMisaligned h⟩
    · exact ⟨_, exec_unmRd n k a s, s.passRead_noMisaligned h⟩
    · exact ⟨_, exec_daRd n k a s, s.dataArrayRead_noMisaligned h⟩
    · exact ⟨_, exec_useWr n a d s, s.useWrite_noMisaligned h d⟩
    · exact ⟨_, exec_thrWr n a d s, s.passWrite_noMisaligned h d⟩
    · exact ⟨_, exec_ioWr n a d s, s.passWrite_noMisaligned h d⟩
    · exact ⟨_, exec_unmWr n a d s, s.passWrite_noMisaligned h d⟩
    · exact ⟨_, exec_daWr n a d s, s.dataArrayWrite_noMisaligned h d⟩
  · by_cases hn : n = .long
    · subst hn
      simp only [if_true, List.mem_cons, List.not_mem_nil, or_false] at hlong
      rcases hlong with rfl | rfl | rfl
      · exact ⟨_, rfl, s.alignedPurge_noMisaligned h⟩
      · exact ⟨_, rfl, s.addressArrayRead_noMisaligned h⟩
      · exact ⟨_, rfl, s.addressArrayWrite_noMisaligned h d⟩
    · simp [hn] at hlong

/-- The reads of every region at a misaligned address (R78). -/
theorem exec_read_misaligned {n : Size} {a : Word} (h : align n a ≠ a) (k : Kind) (s : State) :
    ∀ rd ∈ [useRd, thrRd, ioRd, unmRd, daRd],
      exec (rd n k a) s = exec (rd n k (align n a)) (s.emit (.diag (.misaligned a n))) := by
  intro rd hrd
  simp only [List.mem_cons, List.not_mem_nil, or_false] at hrd
  rcases hrd with rfl | rfl | rfl | rfl | rfl
  · rw [exec_useRd, exec_useRd, s.useRead_misaligned h k]
  · rw [exec_thrRd, exec_thrRd, s.passRead_misaligned h]
  · rw [exec_ioRd, exec_ioRd, s.passRead_misaligned h]
  · rw [exec_unmRd, exec_unmRd, s.passRead_misaligned h]
  · rw [exec_daRd, exec_daRd, s.dataArrayRead_misaligned h]

/-- The writes of every region at a misaligned address (R78). -/
theorem exec_write_misaligned {n : Size} {a : Word} (h : align n a ≠ a) (d : Word) (s : State) :
    ∀ wr ∈ [useWr, thrWr, ioWr, unmWr, daWr],
      exec (wr n a d) s = exec (wr n (align n a) d) (s.emit (.diag (.misaligned a n))) := by
  intro wr hwr
  simp only [List.mem_cons, List.not_mem_nil, or_false] at hwr
  rcases hwr with rfl | rfl | rfl | rfl | rfl
  · rw [exec_useWr, exec_useWr, s.useWrite_misaligned h d]
  · rw [exec_thrWr, exec_thrWr, s.passWrite_misaligned h d]
  · rw [exec_ioWr, exec_ioWr, s.passWrite_misaligned h d]
  · rw [exec_unmWr, exec_unmWr, s.passWrite_misaligned h d]
  · rw [exec_daWr, exec_daWr, s.dataArrayWrite_misaligned h d]

/-- Settles O16: every operation sees its address through `noteAlign` and `align` alone, and nothing else in it puts
out `Misaligned`. -/
theorem misalignedRequestsAreMasked : Obligations.MisalignedRequestsAreMasked := by
  refine ⟨align_toNat, regionOf_align, fun n k A D s h => ?_, fun k A D s h => ?_, fun n k A D s h i hi => ?_⟩
  · exact ⟨exec_read_misaligned h k s, exec_write_misaligned h D s⟩
  · exact ⟨exec_prgWrL_misaligned h s D, exec_aaRdL_misaligned h s k, exec_aaWrL_misaligned h s D⟩
  · obtain ⟨t, ht, es, htrace, hnone⟩ := exec_aligned_noMisaligned h k D s i hi
    exact ⟨t, es, ht, htrace, hnone⟩

/-! Several processors (R90, R303). -/

/-- A processor's step replaces its own copy by the copy's next state, or nothing. -/
theorem stepProcessor_cases (p : Nat) (sys : List State) :
    stepProcessor p sys = sys ∨
      ∃ s s', sys[p]? = some s ∧ step s = .next s' ∧ stepProcessor p sys = sys.set p s' := by
  unfold stepProcessor
  cases hp : sys[p]? with
  | none => exact .inl rfl
  | some s =>
    cases hs : step s with
    | next s' => exact .inr ⟨s, s', rfl, hs, by simp only [hs]⟩
    | fault f => exact .inl (by simp only [hs])
    | refused r => exact .inl (by simp only [hs])

/-- Settles O59: what is replaced lies at another index. -/
theorem processorsAreIndependent : Obligations.ProcessorsAreIndependent := by
  intro p q sys hpq
  obtain h | ⟨s, s', -, -, h⟩ := stepProcessor_cases p sys
  · rw [h]
  · rw [h, List.getElem?_set_ne hpq]

end Sys2Proof.Machine
end

section
/-! The encoding family (spec/30_encoding.md): the rows of R120 and the decoder of R116. The rows look at the fields
`C`, `W`, `SZ`, `CMD` and `A[31:29]` of a word alone, so what R120 says of every word is a check of those fields. -/

namespace Sys2Proof

/-! A command word as its format's fields (R111, R112). -/

/-- A word with `C = 0` is a REQ word of its fields (R111). -/
theorem eq_reqWord_of_request {q : CmdWord} (hC : q.getLsbD 36 = false) :
    q = reqWord (q.getLsbD 35) (q.extractLsb' 33 2) (q.extractLsb' 32 1) (q.extractLsb' 0 32) := by
  apply BitVec.eq_of_getLsbD_eq; intro i hi
  simp only [reqWord, BitVec.getLsbD_append, BitVec.getLsbD_extractLsb']
  by_cases h : i < 32
  · simp [h]
  · have : 32 ≤ i := by omega
    have hC' : q[36] = false := hC
    interval_cases i <;> simp [hC']

/-- The bits 31:29 of the address are those of the word (R111). -/
theorem address_top_bits (q : CmdWord) : (q.extractLsb' 0 32).extractLsb' 29 3 = q.extractLsb' 29 3 := by
  apply BitVec.eq_of_getLsbD_eq; intro i hi
  interval_cases i <;> simp

/-- The bits of a word with `C = 0` that the request rows look at (R111). -/
theorem and_requestMask_of_request {q : CmdWord} (hC : q.getLsbD 36 = false) :
    q &&& 0x1EE0000000#37 =
      0#1 ++ BitVec.ofBool (q.getLsbD 35) ++ q.extractLsb' 33 2 ++ 0#1 ++ q.extractLsb' 29 3 ++ 0#29 := by
  conv_lhs => rw [eq_reqWord_of_request hC, Laws.RowMatch.reqWord_and_mask]
  rw [address_top_bits]

/-- The bits of a word with `C = 1` that the control rows look at (R112). -/
theorem and_controlMask_of_control {q : CmdWord} (hC : q.getLsbD 36 = true) :
    q &&& 0x1F00000000#37 = ctrlWord (q.extractLsb' 32 4) := by
  apply BitVec.eq_of_getLsbD_eq; intro i hi
  simp only [ctrlWord, BitVec.getLsbD_and, BitVec.getLsbD_append, BitVec.getLsbD_extractLsb']
  by_cases h : i < 32
  · have : (0x1F00000000#37).getLsbD i = false := by interval_cases i <;> rfl
    simp [h, this]
  · have : 32 ≤ i := by omega
    have hC' : q[36] = true := hC
    interval_cases i <;> simp [hC']

/-- The rows of R120 do not look at the field `K`. -/
theorem reqWord_and_mask_kind (w : Bool) (sz : BitVec 2) (k k' : BitVec 1) (a : Word) {mask : CmdWord}
    (hmask : mask = 0x1EE0000000#37 ∨ mask = 0x1EC0000000#37) :
    reqWord w sz k a &&& mask = reqWord w sz k' a &&& mask := by
  obtain rfl | rfl := hmask
  · rw [Laws.RowMatch.reqWord_and_mask, Laws.RowMatch.reqWord_and_mask]
  · rw [Laws.RowMatch.reqWord_and_mask_unmapped, Laws.RowMatch.reqWord_and_mask_unmapped]

/-! What a word that decodes decodes to. -/

/-- The field `SZ` of a size (R111). -/
def sizeCode : Size → BitVec 2
  | .byte => 0b00#2
  | .word => 0b01#2
  | .long => 0b10#2

theorem sizeOfCode_eq_some {sz : BitVec 2} {n : Size} (h : sizeOfCode sz = some n) : sz = sizeCode n := by
  revert sz
  cases n <;> decide

theorem decode_control (m : RegionMap) {q : CmdWord} (hC : q.getLsbD 36 = true) (d : Word) :
    decode m q d = decodeControl (q.extractLsb' 32 4) d := by
  simp only [decode, hC, if_true]

theorem decode_request (m : RegionMap) {q : CmdWord} {n : Size} (hC : q.getLsbD 36 = false)
    (hn : sizeOfCode (q.extractLsb' 33 2) = some n) (d : Word) :
    decode m q d = decodeRequest (regionOf m (q.extractLsb' 0 32)) (q.getLsbD 35) n (kindOfBit (q.getLsbD 32))
      (q.extractLsb' 0 32) d := by
  simp only [decode, hC, hn, Bool.false_eq_true, if_false]

/-- A decoded command word is a control word of its `CMD`, or a request of one of the three sizes. -/
theorem decode_ok_cases {m : RegionMap} {q : CmdWord} {d : Word} {i : Instr} (h : decode m q d = .ok i) :
    (q.getLsbD 36 = true ∧ decodeControl (q.extractLsb' 32 4) d = .ok i) ∨
    (q.getLsbD 36 = false ∧ ∃ n, sizeOfCode (q.extractLsb' 33 2) = some n ∧
      decodeRequest (regionOf m (q.extractLsb' 0 32)) (q.getLsbD 35) n (kindOfBit (q.getLsbD 32))
        (q.extractLsb' 0 32) d = .ok i) := by
  cases hC : q.getLsbD 36 with
  | true => exact .inl ⟨rfl, decode_control m hC d ▸ h⟩
  | false =>
    cases hn : sizeOfCode (q.extractLsb' 33 2) with
    | none => simp only [decode, hC, hn, Bool.false_eq_true, if_false, reduceCtorEq] at h
    | some n => exact .inr ⟨rfl, n, rfl, decode_request m hC hn d ▸ h⟩

/-- A control command has no address, and `CMD` is all its row looks at. -/
theorem decodeControl_ok {cmd : BitVec 4} {d : Word} {i : Instr} (h : decodeControl cmd d = .ok i) :
    i.target = none ∧ i.row.mask = 0x1F00000000#37 ∧ (encode i).1 = ctrlWord cmd := by
  unfold decodeControl at h
  split_ifs at h with h0 h1 h2 h3 <;> cases h <;> exact ⟨rfl, rfl, by simp only [encode, *]⟩

/-- A request decodes to a command at the request's address and region, whose word has the request's `W`, `SZ` and
`A`, and whose row looks at no more than these. -/
theorem decodeRequest_ok {r : Region} {w : Bool} {n : Size} {k : Kind} {a d : Word} {i : Instr}
    (h : decodeRequest r w n k a d = .ok i) :
    i.target = some (a, r) ∧ (i.row.mask = 0x1EE0000000#37 ∨ i.row.mask = 0x1EC0000000#37) ∧
      ∃ k', (encode i).1 = reqWord w (sizeCode n) k' a := by
  unfold decodeRequest at h
  split at h <;> cases h
  all_goals exact ⟨rfl, by simp only [Instr.row, true_or, or_true], _, rfl⟩

theorem decode_wellFormed {m : RegionMap} {q : CmdWord} {d : Word} {i : Instr} (h : decode m q d = .ok i) :
    WellFormed m i := by
  obtain ⟨-, hi⟩ | ⟨-, n, -, hi⟩ := decode_ok_cases h
  · obtain ⟨htarget, -, -⟩ := decodeControl_ok hi
    simp [WellFormed, htarget]
  · obtain ⟨htarget, -, -⟩ := decodeRequest_ok hi
    simp [WellFormed, htarget]

/-- A decoded word and the encoder's word of its command agree on the bits that the command's row looks at. -/
theorem decode_and_rowMask {m : RegionMap} {q : CmdWord} {d : Word} {i : Instr} (h : decode m q d = .ok i) :
    q &&& i.row.mask = (encode i).1 &&& i.row.mask := by
  obtain ⟨hC, hi⟩ | ⟨hC, n, hn, hi⟩ := decode_ok_cases h
  · obtain ⟨-, hmask, hword⟩ := decodeControl_ok hi
    rw [hword, hmask, ← and_controlMask_of_control hC, BitVec.and_assoc, BitVec.and_self]
  · obtain ⟨-, hmask, k', hword⟩ := decodeRequest_ok hi
    rw [hword, ← sizeOfCode_eq_some hn]
    conv_lhs => rw [eq_reqWord_of_request hC]
    exact reqWord_and_mask_kind _ _ _ _ _ hmask

/-! The rows of R120. -/

/-- The family `RowMatch` at every command. -/
theorem row_matches_encode (i : Instr) : Laws.RowMatch.Statement i := by
  cases i with
  | useRdB k a => exact Laws.RowMatch.useRdB k a
  | useRdW k a => exact Laws.RowMatch.useRdW k a
  | useRdL k a => exact Laws.RowMatch.useRdL k a
  | useWrB a d => exact Laws.RowMatch.useWrB a d
  | useWrW a d => exact Laws.RowMatch.useWrW a d
  | useWrL a d => exact Laws.RowMatch.useWrL a d
  | thrRdB k a => exact Laws.RowMatch.thrRdB k a
  | thrRdW k a => exact Laws.RowMatch.thrRdW k a
  | thrRdL k a => exact Laws.RowMatch.thrRdL k a
  | thrWrB a d => exact Laws.RowMatch.thrWrB a d
  | thrWrW a d => exact Laws.RowMatch.thrWrW a d
  | thrWrL a d => exact Laws.RowMatch.thrWrL a d
  | ioRdB k a => exact Laws.RowMatch.ioRdB k a
  | ioRdW k a => exact Laws.RowMatch.ioRdW k a
  | ioRdL k a => exact Laws.RowMatch.ioRdL k a
  | ioWrB a d => exact Laws.RowMatch.ioWrB a d
  | ioWrW a d => exact Laws.RowMatch.ioWrW a d
  | ioWrL a d => exact Laws.RowMatch.ioWrL a d
  | unmRdB k a => exact Laws.RowMatch.unmRdB k a
  | unmRdW k a => exact Laws.RowMatch.unmRdW k a
  | unmRdL k a => exact Laws.RowMatch.unmRdL k a
  | unmWrB a d => exact Laws.RowMatch.unmWrB a d
  | unmWrW a d => exact Laws.RowMatch.unmWrW a d
  | unmWrL a d => exact Laws.RowMatch.unmWrL a d
  | prgWrL a d => exact Laws.RowMatch.prgWrL a d
  | aaRdL k a => exact Laws.RowMatch.aaRdL k a
  | aaWrL a d => exact Laws.RowMatch.aaWrL a d
  | daRdB k a => exact Laws.RowMatch.daRdB k a
  | daRdW k a => exact Laws.RowMatch.daRdW k a
  | daRdL k a => exact Laws.RowMatch.daRdL k a
  | daWrB a d => exact Laws.RowMatch.daWrB a d
  | daWrW a d => exact Laws.RowMatch.daWrW a d
  | daWrL a d => exact Laws.RowMatch.daWrL a d
  | reset => exact Laws.RowMatch.reset
  | enable => exact Laws.RowMatch.enable
  | disable => exact Laws.RowMatch.disable
  | setrepl d => exact Laws.RowMatch.setrepl d

/-- A word that decodes to a command matches the command's row. -/
theorem row_matches_of_decode {q : CmdWord} {d : Word} {i : Instr} (h : decode defaultRegionMap q d = .ok i) :
    i.row.Matches q :=
  (decode_and_rowMask h).trans (row_matches_encode i (decode_wellFormed h))

theorem Instr.row_mem_opcodeRows (i : Instr) : i.row ∈ opcodeRows := by
  simp only [opcodeRows, opcodeRowsUse, opcodeRowsThrough, opcodeRowsIo, opcodeRowsUnmapped, opcodeRowsArrays,
    opcodeRowsControl, List.cons_append, List.nil_append, List.mem_cons]
  cases i <;> simp only [Instr.row, true_or, or_true]

/-- Different rows disagree on a bit that both look at. -/
theorem opcodeRow_eq_of_agree : ∀ r ∈ opcodeRows, ∀ r' ∈ opcodeRows,
    r.bits &&& r'.mask = r'.bits &&& r.mask → r = r' := by
  decide

/-- What is left of a matching word under another mask agrees with what that mask leaves of the row. -/
theorem OpcodeRow.Matches.and_mask {r : OpcodeRow} {q : CmdWord} (h : r.Matches q) (mask : CmdWord) :
    (q &&& mask) &&& r.mask = r.bits &&& mask := by
  rw [← h, BitVec.and_assoc, BitVec.and_assoc, BitVec.and_comm mask]

/-- No two rows match the same word. -/
theorem opcodeRow_unique {q : CmdWord} {r r' : OpcodeRow} (hr : r ∈ opcodeRows) (hr' : r' ∈ opcodeRows)
    (h : r.Matches q) (h' : r'.Matches q) : r = r' :=
  opcodeRow_eq_of_agree r hr r' hr' (by rw [← h.and_mask, h'])

/-! A word that matches a row decodes: a check of the fields that the rows look at. -/

/-- Whether a request with the fields `W`, `SZ` and `A[31:29]` decodes under the default region map. -/
def requestDecodes (w : Bool) (sz : BitVec 2) (t : BitVec 3) : Bool :=
  (sizeOfCode sz).any fun n => (decodeRequest (defaultRegionMap[t.toNat]'t.isLt) w n .data 0 0).isOk

/-- Whether a request is valid does not turn on its `K`, its address within the region, or `D`. -/
theorem decodeRequest_isOk_congr (r : Region) (w : Bool) (n : Size) (k k' : Kind) (a a' d d' : Word) :
    (decodeRequest r w n k a d).isOk = (decodeRequest r w n k' a' d').isOk := by
  cases r <;> cases w <;> cases n <;> rfl

theorem decode_isOk_of_requestDecodes {q : CmdWord} (hC : q.getLsbD 36 = false)
    (h : requestDecodes (q.getLsbD 35) (q.extractLsb' 33 2) (q.extractLsb' 29 3) = true) (d : Word) :
    (decode defaultRegionMap q d).isOk = true := by
  obtain ⟨n, hn, hok⟩ := (Option.any_eq_true _ _).mp h
  rw [decode_request _ hC hn, ← hok]
  simp only [regionOf, address_top_bits]
  exact decodeRequest_isOk_congr ..

/-- The fields of a REQ word that agrees with a row on the bits it looks at are those of a valid request. -/
theorem requestDecodes_of_row : ∀ r ∈ opcodeRows, ∀ (w : Bool) (sz : BitVec 2) (t : BitVec 3),
    (0#1 ++ BitVec.ofBool w ++ sz ++ 0#1 ++ t ++ 0#29) &&& r.mask = r.bits &&& 0x1EE0000000#37 →
      requestDecodes w sz t = true := by
  decide

/-- The `CMD` of a CTRL word that agrees with a row on the bits it looks at is no reserved one. -/
theorem decodeControl_isOk_of_row : ∀ r ∈ opcodeRows, ∀ cmd : BitVec 4,
    ctrlWord cmd &&& r.mask = r.bits &&& 0x1F00000000#37 → (decodeControl cmd 0).isOk = true := by
  decide

theorem decodeControl_isOk_congr (cmd : BitVec 4) (d d' : Word) :
    (decodeControl cmd d).isOk = (decodeControl cmd d').isOk := by
  unfold decodeControl
  split_ifs <;> rfl

theorem decode_isOk_of_row_matches {r : OpcodeRow} (hr : r ∈ opcodeRows) {q : CmdWord} (h : r.Matches q) (d : Word) :
    (decode defaultRegionMap q d).isOk = true := by
  cases hC : q.getLsbD 36 with
  | true =>
    have hbits := h.and_mask 0x1F00000000#37
    rw [and_controlMask_of_control hC] at hbits
    rw [decode_control _ hC, decodeControl_isOk_congr _ d 0]
    exact decodeControl_isOk_of_row r hr _ hbits
  | false =>
    have hbits := h.and_mask 0x1EE0000000#37
    rw [and_requestMask_of_request hC] at hbits
    exact decode_isOk_of_requestDecodes hC (requestDecodes_of_row r hr _ _ _ hbits) d

/-- Settles O5: a word that matches a row decodes, a decoded word matches its command's row, and no two rows match
one word. -/
theorem opcodeRowsDecode : Obligations.OpcodeRowsDecode := by
  intro q d r hr
  constructor
  · intro h
    cases hi : decode defaultRegionMap q d with
    | ok i => exact ⟨i, rfl, opcodeRow_unique i.row_mem_opcodeRows hr (row_matches_of_decode hi) h⟩
    | error why =>
      have hok := decode_isOk_of_row_matches hr h d
      rw [hi] at hok
      cases hok
  · rintro ⟨i, hi, rfl⟩
    exact row_matches_of_decode hi

end Sys2Proof
end

section
/-! The cached-access family (spec/40_cached_access.md): the lookup (R142), the routing of a Use-region request
(R140), the read hit (R143), the read miss with and without a victim (R147, R148), and the cached write (R149).
Which operation a request is, is said first; then what that operation has done since before the alignment event. -/

namespace Sys2Proof.Machine

/-- Settles O18: a hit is decided by the whole tag word, and the formed tag has V = 1. -/
theorem lookupHighestWayFirst : Obligations.LookupHighestWayFirst := by
  refine fun s a => ⟨fun w => State.lookup_eq_some, State.lookup_eq_none, fun w h => ?_⟩
  obtain ⟨htag, -⟩ := State.lookup_eq_some.mp h
  rw [htag]
  exact formTag_valid a

/-! Which operation a Use-region request is (R140, R142, R147, R149). A refill is `State.useRead_refills`. -/

theorem State.useRead_bypasses {s : State} (h : s.cachedEnabled = false) (n : Size) (k : Kind) (A : Word) :
    s.useRead n k A = s.passRead n A :=
  State.useRead_uncached h n k A

theorem State.useWrite_bypasses {s : State} (h : s.cachedEnabled = false) (n : Size) (A D : Word) :
    s.useWrite n A D = s.passWrite n A D :=
  State.useWrite_uncached h n A D

section
variable {s : State} {n : Size} {A : Word} (hc : s.cachedEnabled = true)
include hc

theorem State.useRead_hit {w : Way} (h : HitsWay s (align n A) w) (k : Kind) :
    s.useRead n k A = (s.noteAlign n A).readHit (align n A) n w := by
  rw [State.useRead_cached hc]
  simp only [State.cachedRead, State.noteAlign_lookup, State.lookup_eq_some.mpr h]

theorem State.useRead_noVictim (hmiss : Misses s (align n A)) (hvictim : victimEntry s (align n A) = none)
    (k : Kind) : s.useRead n k A = s.passRead n A := by
  have hnone : (s.noteAlign n A).selectVictim (setOfAddr (align n A)) k = none := by
    rw [State.noteAlign_selectVictim, State.selectVictim_eq, hvictim, Option.map_none]
  rw [State.useRead_cached hc, State.passRead]
  simp only [State.cachedRead, State.noteAlign_lookup, State.lookup_eq_none.mpr hmiss, hnone]

theorem State.useWrite_hit {w : Way} (h : HitsWay s (align n A) w) (hwf : Memory.wf s.lines = true) (D : Word) :
    ∃ u, WriteHitDone n A w D s u ∧ s.useWrite n A D = u.busWrite (align n A) n D := by
  refine ⟨_, State.writeHit_done hwf n A w D, ?_⟩
  rw [State.useWrite_cached hc]
  simp only [State.cachedWrite, State.noteAlign_lookup, State.lookup_eq_some.mpr h]

theorem State.useWrite_miss (hmiss : Misses s (align n A)) (D : Word) :
    s.useWrite n A D = s.passWrite n A D := by
  rw [State.useWrite_cached hc, State.passWrite]
  simp only [State.cachedWrite, State.noteAlign_lookup, State.lookup_eq_none.mpr hmiss]

end

/-! A request that is one bus access, answered (R140, R147, R149). -/

section
variable {s : State} {n : Size} {A v : Word} {c : Option Nat} (h : s.nextAnswer (align n A) n = .done v c)
include h

theorem State.passRead_done :
    OnlyBusUsed 1 s (s.passRead n A) ∧ (s.passRead n A).trace = s.trace ++ alignEvents n A ++
      [.busRead (align n A) n (.done v c), .response (some (lowBits n v)) (c.getD 0)] := by
  obtain ⟨htag, hlru, hline, -, hcontrol⟩ := s.passRead_only n A
  have he := State.busRead_done ((s.noteAlign_nextAnswer n A ..).trans h)
  refine ⟨⟨⟨htag, hline, hlru⟩, hcontrol, ?_, ?_, ?_⟩, ?_⟩ <;> simp [State.passRead, he]

theorem State.passWrite_done (D : Word) :
    OnlyBusUsed 1 s (s.passWrite n A D) ∧ (s.passWrite n A D).trace = s.trace ++ alignEvents n A ++
      [.busWrite (align n A) n (lowBits n D) (.done v c), .response none (c.getD 0)] := by
  obtain ⟨htag, hlru, hline, -, hcontrol⟩ := s.passWrite_only n A D
  have he := State.busWrite_done (d := D) ((s.noteAlign_nextAnswer n A ..).trans h)
  refine ⟨⟨⟨htag, hline, hlru⟩, hcontrol, ?_, ?_, ?_⟩, ?_⟩ <;> simp [State.passWrite, he]

end

/-- Settles O19: a request that is not cached is what a pass-through access is. -/
theorem useRegionRouting : Obligations.UseRegionRouting := by
  intro s n k A D
  rw [exec_useRd, exec_useWr]
  refine ⟨fun ⟨hcfg, hen⟩ => ?_, fun v c hflags hans => ?_⟩
  · have hc := State.cachedEnabled_eq_true hcfg hen
    rw [State.useRead_cached hc, State.useWrite_cached hc]
    exact ⟨rfl, rfl⟩
  · have hc : s.cachedEnabled = false := by simpa [State.cachedEnabled] using hflags
    rw [State.useRead_bypasses hc, State.useWrite_bypasses hc]
    exact ⟨⟨_, rfl, State.passRead_done hans⟩, ⟨_, rfl, State.passWrite_done hans D⟩⟩

/-- Settles O22: with no victim the read is what a pass-through access is. -/
theorem missWithoutVictimBypasses : Obligations.MissWithoutVictimBypasses := by
  intro s n k A v c hcfg hen hmiss hvictim hans
  rw [exec_useRd, State.useRead_noVictim (State.cachedEnabled_eq_true hcfg hen) hmiss hvictim]
  exact ⟨_, rfl, State.passRead_done hans⟩

/-! The read hit (R143, R280). -/

theorem State.touch_lruUsed (s : State) (a : Word) (w : Way) : LruUsed a w s (s.touch (setOfAddr a) w) := by
  intro set
  rw [State.lruAt_touch, plruUpdate]
  split
  · next h => rw [h]
  · rfl

/-- A read hit uses its way and leaves the tags, the lines and the fault, checked or not, on a bus that answers
the check. -/
theorem State.readHit_usesWay {s : State} {a : Word} {n : Size} {b : Word} {c : Option Nat}
    (hb : s.params.coherencyCheck = true → s.nextAnswer a n = .done b c) (w : Way) :
    LruUsed a w s (s.readHit a n w) ∧ (∀ set w', (s.readHit a n w).tagAt set w' = s.tagAt set w') ∧
      (∀ set w' o, (s.readHit a n w).lineByte set w' o = s.lineByte set w' o) ∧
      (s.readHit a n w).faulted = s.faulted := by
  have hused := s.touch_lruUsed a w
  cases hcheck : s.params.coherencyCheck with
  | false =>
    rw [State.readHit_unchecked hcheck]
    exact ⟨hused, fun _ _ => rfl, fun _ _ _ => rfl, rfl⟩
  | true =>
    rw [State.readHit_checked hcheck (hb hcheck)]
    dsimp only
    split <;> exact ⟨hused, fun _ _ => rfl, fun _ _ _ => rfl, rfl⟩

/-- An unchecked read hit makes no bus call and puts out its response alone. -/
theorem State.readHit_unchecked_output {s : State} (hcheck : s.params.coherencyCheck = false) (a : Word) (n : Size)
    (w : Way) : SameBus s (s.readHit a n w) ∧ (s.readHit a n w).trace =
      s.trace ++ [.response (some (s.lineRead (setOfAddr a) w (offOf a) n)) s.params.hitCost] := by
  rw [State.readHit_unchecked hcheck]
  exact ⟨⟨rfl, rfl⟩, rfl⟩

/-- A checked read hit reads the bus once and puts out a mismatch where the values differ. -/
theorem State.readHit_checked_output {s : State} (hcheck : s.params.coherencyCheck = true) {a : Word} {n : Size}
    {b : Word} {c : Option Nat} (hb : s.nextAnswer a n = .done b c) (w : Way) :
    let v := s.lineRead (setOfAddr a) w (offOf a) n
    BusCallsMade 1 s (s.readHit a n w) ∧ (s.readHit a n w).trace = s.trace ++ [.busRead a n (.done b c)] ++
      (if lowBits n b = v then [] else [.diag (.coherencyMismatch a n v (lowBits n b))]) ++
      [.response (some v) s.params.hitCost] := by
  intro v
  rw [State.readHit_checked hcheck hb]
  dsimp only
  split <;> exact ⟨⟨by simp, by simp⟩, by simp [v]⟩

/-- Settles O20: the hit way's use is the one change, and the outputs are the check's, if it runs, and the
response. -/
theorem cachedReadHitAnswersLine : Obligations.CachedReadHitAnswersLine := by
  intro s n k A b w c hcfg hen hhit hb v
  let s' := s.noteAlign n A
  have he := State.useRead_hit (State.cachedEnabled_eq_true hcfg hen) hhit k
  have hb' : s'.params.coherencyCheck = true → s'.nextAnswer (align n A) n = .done b c := by simpa [s'] using hb
  obtain ⟨hlru, htag, hline, hfaulted⟩ := State.readHit_usesWay hb' w
  have hcontrol := (s.useRead_done n k A).2
  rw [he] at hcontrol
  rw [exec_useRd, he]
  refine ⟨_, rfl, ?_, ?_, ?_, hcontrol, ?_, fun hcheck => ?_, fun hcheck => ?_⟩
  · simpa [LruUsed, s'] using hlru
  · simpa [s'] using htag
  · simpa [s'] using hline
  · simpa [s'] using hfaulted
  · obtain ⟨hbus, htrace⟩ := State.readHit_unchecked_output (s := s') (by simpa [s'] using hcheck) (align n A) n w
    exact ⟨⟨by simp [s', hbus.busAnswers], by simp [s', hbus.busCalls]⟩, by simp [s', htrace, v]⟩
  · have hcheck' : s'.params.coherencyCheck = true := by simpa [s'] using hcheck
    obtain ⟨hbus, htrace⟩ := State.readHit_checked_output hcheck' (hb' hcheck') w
    exact ⟨⟨by simp [s', hbus.busAnswers], by simp [s', hbus.busCalls]⟩, by simp [s', htrace, v]⟩

/-! The read miss with a victim (R148). -/

/-- Settles O23: the refill, its answer read from the line it has filled. -/
theorem missRefillsVictimLine : Obligations.MissRefillsVictimLine := by
  intro s n k A w v c hwf hrefills hans
  obtain ⟨u, hu, hdone⟩ := State.refillRead_done (s := s.noteAlign n A) (w := w) n fun i hi =>
    (s.answerAt_noteAlign n A i ..).trans (hans i hi)
  have he := (State.useRead_refills hrefills).trans hdone
  obtain ⟨htag, hlru, hlines, -, hfaulted, hbus, htrace⟩ := hu.of_noteAlign
  obtain ⟨-, hchunks⟩ := hlines hwf
  have hcontrol := (s.useRead_done n k A).2
  rw [he] at hcontrol
  rw [exec_useRd, he]
  exact ⟨_, rfl, htag, hlru, ⟨hchunks.filled, hchunks.kept, hchunks.others⟩, hcontrol, hfaulted,
    ⟨hbus.busAnswers, hbus.busCalls⟩, by simp [htrace, refillCost]⟩

/-! The cached write (R149). -/

/-- Settles O28: on a hit the line is stored and the way used before the bus write; on a miss the bus write is
all. -/
theorem cachedWriteGoesThrough : Obligations.CachedWriteGoesThrough := by
  intro s n A D v c hcfg hen hans hwf
  have hc := State.cachedEnabled_eq_true hcfg hen
  rw [exec_useWr]
  refine ⟨fun w hhit => ?_, fun hmiss => ?_⟩
  · obtain ⟨u, hu, hwrite⟩ := State.useWrite_hit hc hhit hwf D
    have hans' : u.nextAnswer (align n A) n = .done v c := by
      simpa only [State.nextAnswer, hu.bus.busAnswers, hu.bus.busCalls] using hans
    obtain ⟨htag, -, hcontrol, -⟩ := s.useWrite_done n A D
    rw [hwrite, State.busWrite_done hans'] at htag hcontrol ⊢
    exact ⟨_, rfl, hu.line, hu.lruUsed, hu.lruKept, htag, hcontrol, hu.faulted,
      ⟨by simp [hu.bus.busAnswers], by simp [hu.bus.busCalls]⟩, by simp [hu.trace]⟩
  · rw [State.useWrite_miss hc hmiss]
    exact ⟨_, rfl, State.passWrite_done hans D⟩

end Sys2Proof.Machine
end

section
/-! The pass-through family (spec/41_pass_through.md, R190): which operation a command to the Through region, the IO
region or an unmapped code is. What that operation does when the bus answers is `State.passRead_done` and
`State.passWrite_done`. -/

namespace Sys2Proof.Machine

theorem exec_of_mem_passRds {i : Instr} {n : Size} {k : Kind} {A : Word} (hi : i ∈ passRds n k A) (s : State) :
    exec i s = .next (s.passRead n A) := by
  simp only [passRds, List.mem_cons, List.not_mem_nil, or_false] at hi
  rcases hi with rfl | rfl | rfl
  · exact exec_thrRd n k A s
  · exact exec_ioRd n k A s
  · exact exec_unmRd n k A s

theorem exec_of_mem_passWrs {i : Instr} {n : Size} {A D : Word} (hi : i ∈ passWrs n A D) (s : State) :
    exec i s = .next (s.passWrite n A D) := by
  simp only [passWrs, List.mem_cons, List.not_mem_nil, or_false] at hi
  rcases hi with rfl | rfl | rfl
  · exact exec_thrWr n A D s
  · exact exec_ioWr n A D s
  · exact exec_unmWr n A D s

/-- Settles O32: in each of the three regions the command is the one pass-through access, which looks at no flag. -/
theorem passThroughGoesToBus : Obligations.PassThroughGoesToBus := by
  intro s n k A D v c hans
  exact ⟨fun i hi => ⟨_, exec_of_mem_passRds hi s, State.passRead_done hans⟩,
    fun i hi => ⟨_, exec_of_mem_passWrs hi s, State.passWrite_done hans D⟩⟩

end Sys2Proof.Machine
end

section
/-! The purge family (spec/42_purge.md, R230, R231): the scan of `State.purge_eq` runs after the alignment event, at
the masked address, whose set and formed tag are those of the address presented. -/

namespace Sys2Proof.Machine

theorem clearValid_eq_and_mask (t : Word) : clearValid t = t &&& 0xFFFFFFFD#32 := rfl

/-- PRG.WR.L at the address presented: the alignment event, the scan, the response. -/
theorem exec_prgWrL_eq (s : State) (A D : Word) :
    ∃ u, (∀ set w, u.tagAt set w =
        if set = setOfAddr A ∧ s.tagAt set w = formTag A then clearValid (s.tagAt set w) else s.tagAt set w) ∧
      OnlyTags (s.noteAlign .long A) u ∧ exec (.prgWrL A D) s = .next (u.respond none s.params.arrayCost) := by
  obtain ⟨u, htag, honly, he⟩ := (s.noteAlign .long A).purge_eq (align .long A)
  refine ⟨u, fun set w => ?_, honly, ?_⟩
  · simpa only [setOfAddr_align, formTag_align, State.noteAlign_tagAt] using htag set w
  · rw [State.noteAlign_params] at he
    exact congrArg Host.Outcome.next he

/-- The alignment event changes no control register, parameter or input. -/
theorem SameControl.of_noteAlign {s t : State} {n : Size} {a : Word} (h : SameControl (s.noteAlign n a) t) :
    SameControl s t := by
  constructor
  · simpa using h.enabled
  · simpa using h.replMask
  · simpa using h.replBiasData
  · simpa using h.replBiasInstr
  · simpa using h.params
  · simpa using h.cfgCacheEnable
  · simpa using h.aaWay
  · simpa using h.requests

/-- Settles O34: the scan changes tags alone, and the alignment event and the response are all that is put out. -/
theorem purgeClearsEveryMatch : Obligations.PurgeClearsEveryMatch := by
  intro s A D
  obtain ⟨u, htag, hu, he⟩ := exec_prgWrL_eq s A D
  have hcontrol := hu.control.of_noteAlign
  refine ⟨_, he, fun set w => ?_, fun set w o => ?_, fun set => ?_, ?_, ?_, ⟨?_, ?_⟩, ?_⟩
  · rw [State.respond_tagAt, htag, clearValid_eq_and_mask]
  · simpa using hu.line set w o
  · simpa using hu.lru set
  · exact ⟨hcontrol.enabled, hcontrol.replMask, hcontrol.replBiasData, hcontrol.replBiasInstr, hcontrol.params,
      hcontrol.cfgCacheEnable, hcontrol.aaWay, hcontrol.requests⟩
  · simpa using hu.faulted
  · simpa using hu.bus.busAnswers
  · simpa using hu.bus.busCalls
  · rw [State.respond_trace, hu.trace, State.noteAlign_trace]

end Sys2Proof.Machine
end

section
/-! The array-window family (spec/43_direct_array.md): the address-array window (R240 to R242) and the data-array
window (R243 to R249). Each access is said first in terms of the state before the alignment event. -/

namespace Sys2Proof.Machine

/-! A read of either window: the alignment event, then the response. -/

theorem State.addressArrayRead_eq (s : State) (a : Word) :
    s.addressArrayRead a = (s.noteAlign .long a).respond
      (some (composite (s.tagAt (setOfAddr a) s.aaWay) (s.lruAt (setOfAddr a)))) s.params.arrayCost := by
  simp only [State.addressArrayRead, setOfAddr_align, State.noteAlign_tagAt, State.noteAlign_lruAt,
    State.noteAlign_aaWay, State.noteAlign_params]

theorem State.dataArrayRead_eq (s : State) (n : Size) (a : Word) :
    s.dataArrayRead n a = (s.noteAlign n a).respond
      (some (s.lineRead (setOfAddr (align n a)) (dataArrayWay (align n a)) (offOf (align n a)) n))
      s.params.arrayCost := by
  simp only [State.dataArrayRead, State.noteAlign_lineRead, State.noteAlign_params]

theorem State.noteAlign_respond_onlyOutput (s : State) (n : Size) (a : Word) (v : Option Word) (c : Nat) :
    OnlyOutput s ((s.noteAlign n a).respond v c) := by
  have hcontrol : SameControl s ((s.noteAlign n a).respond v c) :=
    .of_noteAlign (n := n) (a := a) ⟨rfl, rfl, rfl, rfl, rfl, rfl, rfl, rfl⟩
  exact ⟨⟨by simp, by simp, by simp⟩, hcontrol, by simp, by simp, by simp⟩

theorem State.noteAlign_respond_trace (s : State) (n : Size) (a : Word) (v : Option Word) (c : Nat) :
    ((s.noteAlign n a).respond v c).trace = s.trace ++ alignEvents n a ++ [.response v c] := by
  rw [State.respond_trace, State.noteAlign_trace]

/-- Settles O36: the answered word is the composite of the set's LRU state and the tag of way `AA_WAY`. -/
theorem addressArrayRead : Obligations.AddressArrayRead := by
  intro s k A
  exact ⟨_, congrArg Host.Outcome.next (s.addressArrayRead_eq A), s.noteAlign_respond_onlyOutput .long A _ _,
    s.noteAlign_respond_trace .long A _ _⟩

/-- Settles O40: the answered value is the line read of R76 at the address fields, which examines no tag. -/
theorem dataArrayReads : Obligations.DataArrayReads := by
  intro s n k A
  rw [exec_daRd, State.dataArrayRead_eq]
  exact ⟨_, _, rfl, s.noteAlign_respond_onlyOutput n A _ _, s.noteAlign_respond_trace n A _ _,
    s.lowBits_lineRead .., fun b hb => s.extract_lineRead _ _ _ n b hb⟩

/-! The address-array write (R242). -/

/-- The alignment clears no bit of the address that a tag takes. -/
theorem writtenTag_align (src : AaWriteSource) (a d : Word) :
    writtenTag src (align .long a) d = writtenTag src a d := by
  cases src
  · rfl
  · simp [writtenTag, align, BitVec.and_assoc]

theorem writtenTag_eq_ite (src : AaWriteSource) (a d : Word) :
    writtenTag src a d = if src = .data then (d &&& 0x1FFFFC00#32) ||| (d &&& 0x00000002#32)
      else (a &&& 0x1FFFFC00#32) ||| (d &&& 0x00000002#32) := by
  cases src <;> rfl

theorem State.addressArrayWrite_eq (s : State) (a d : Word) :
    s.addressArrayWrite a d = (((s.noteAlign .long a).setTag (setOfAddr a) s.aaWay
      (writtenTag s.params.aaWriteSource a d)).setLru (setOfAddr a) (writtenLru d)).respond none
      s.params.arrayCost := by
  simp only [State.addressArrayWrite, setOfAddr_align, writtenTag_align, State.noteAlign_aaWay,
    State.noteAlign_params]

/-- Settles O38: one tag and one LRU state are set between the alignment event and the response. -/
theorem addressArrayWrite : Obligations.AddressArrayWrite := by
  intro s A D
  refine ⟨_, congrArg Host.Outcome.next (s.addressArrayWrite_eq A D), fun set w => ?tag, fun set => ?lru,
    fun set w o => ?line, ?control, ?faulted, ⟨?busAnswers, ?busCalls⟩, ?trace⟩
  case tag =>
    rw [State.respond_tagAt, State.setLru_tagAt, State.tagAt_setTag, State.noteAlign_tagAt, writtenTag_eq_ite]
  case lru =>
    rw [State.respond_lruAt, State.lruAt_setLru, State.setTag_lruAt, State.noteAlign_lruAt, writtenLru]
  case control =>
    exact SameControl.of_noteAlign (n := .long) (a := A) ⟨rfl, rfl, rfl, rfl, rfl, rfl, rfl, rfl⟩
  all_goals simp

/-! The data-array write (R247 to R249). -/

theorem State.dataArrayWrite_eq (s : State) (n : Size) (a d : Word) :
    s.dataArrayWrite n a d = ((s.noteAlign n a).lineWrite (setOfAddr (align n a)) (dataArrayWay (align n a))
      (offOf (align n a)) n d).respond none s.params.arrayCost := by
  simp only [State.dataArrayWrite, State.noteAlign_params]

/-- Settles O41: the line write of R76 at the address fields, which examines no tag and makes no bus call. -/
theorem dataArrayWrites : Obligations.DataArrayWrites := by
  intro s n A D hwf
  have hwf' : Memory.wf (s.noteAlign n A).lines = true := by simpa using hwf
  have hstored := State.stored_lineWrite hwf' (setOfAddr (align n A)) (dataArrayWay (align n A))
    (offOf (align n A)) n D
  rw [exec_daWr, State.dataArrayWrite_eq]
  refine ⟨_, rfl, ?stored, fun set w => ?tag, fun set => ?lru, ?control, ?faulted, ⟨?busAnswers, ?busCalls⟩, ?trace⟩
  case stored => exact hstored.congr (s.noteAlign_lineByte n A) fun _ _ _ => rfl
  case control => constructor <;> simp
  all_goals simp

end Sys2Proof.Machine
end

section
/-! The control family (spec/44_control.md, R270 to R273): each command is one write of control registers, RESET's
after the clearing of the arrays, and then a response of cost 0. -/

namespace Sys2Proof.Machine

theorem exec_reset_eq (s : State) : exec .reset s = .next (((s.clearArrays.setEnabled false).setRepl
    s.params.replMaskReset s.params.replBiasDataReset s.params.replBiasInstrReset).respond none 0) := rfl

theorem exec_enable_disable_eq (s : State) (b : Bool) :
    exec (if b then .enable else .disable) s = .next ((s.setEnabled b).respond none 0) := by
  cases b <;> rfl

theorem exec_setrepl_eq (d : Word) (s : State) : exec (.setrepl d) s =
    .next ((s.setRepl (replMaskField d) (replBiasDataField d) (replBiasInstrField d)).respond none 0) := rfl

/-! SETREPL's operand fields as numbers (R273). -/

theorem replMaskField_toNat (d : Word) : (replMaskField d).toNat = d.toNat % 64 := by
  rw [replMaskField, BitVec.extractLsb'_toNat, Nat.shiftRight_zero]

theorem replBiasDataField_toNat (d : Word) : (replBiasDataField d).toNat = d.toNat / 256 % 4 := by
  rw [replBiasDataField, BitVec.extractLsb'_toNat, Nat.shiftRight_eq_div_pow]

theorem replBiasInstrField_toNat (d : Word) : (replBiasInstrField d).toNat = d.toNat / 1024 % 4 := by
  rw [replBiasInstrField, BitVec.extractLsb'_toNat, Nat.shiftRight_eq_div_pow]

/-! What the register writes leave alone. -/

theorem State.setEnabled_respond_sameArrays (s : State) (b : Bool) (v : Option Word) (c : Nat) :
    SameArrays s ((s.setEnabled b).respond v c) :=
  ⟨by simp, by simp, by simp⟩

theorem State.setRepl_respond_sameArrays (s : State) (m : LruBits) (bd bi : Way) (v : Option Word) (c : Nat) :
    SameArrays s ((s.setRepl m bd bi).respond v c) :=
  ⟨by simp, by simp, by simp⟩

/-- Settles O43: the arrays are those of `State.clearArrays`, and the two register writes give the rest. -/
theorem resetClearsBlock : Obligations.ResetClearsBlock := by
  intro s
  refine ⟨_, exec_reset_eq s, fun set w => ?tag, fun set w o => ?line, fun set => ?lru, ?enabled, ?replMask,
    ?replBiasData, ?replBiasInstr, ?params, ?faulted, ?cfgCacheEnable, ?aaWay, ?requests, ⟨?busAnswers, ?busCalls⟩,
    ?trace⟩
  case tag => rw [State.respond_tagAt, State.setRepl_tagAt, State.setEnabled_tagAt, State.clearArrays_tagAt]
  case line =>
    rw [State.respond_lineByte, State.setRepl_lineByte, State.setEnabled_lineByte, State.clearArrays_lineByte]
  case lru => rw [State.respond_lruAt, State.setRepl_lruAt, State.setEnabled_lruAt, State.clearArrays_lruAt]
  all_goals simp

/-- Settles O45: one equation for both commands, which write the flag the command names. -/
theorem enableDisableOnlyFlag : Obligations.EnableDisableOnlyFlag := by
  intro s b
  refine ⟨_, exec_enable_disable_eq s b, ?enabled, s.setEnabled_respond_sameArrays b none 0, ?replMask,
    ?replBiasData, ?replBiasInstr, ?params, ?cfgCacheEnable, ?aaWay, ?requests, ?faulted, ⟨?busAnswers, ?busCalls⟩,
    ?trace⟩
  all_goals simp

/-- Settles O46: the three registers take the operand's fields, which as numbers are the quotients and remainders of
the operand. -/
theorem setReplacementParameters : Obligations.SetReplacementParameters := by
  intro s D
  refine ⟨_, exec_setrepl_eq D s, replMaskField_toNat D, replBiasDataField_toNat D, replBiasInstrField_toNat D,
    s.setRepl_respond_sameArrays _ _ _ none 0, ?enabled, ?params, ?cfgCacheEnable, ?aaWay, ?requests, ?faulted,
    ⟨?busAnswers, ?busCalls⟩, ?trace⟩
  all_goals simp

end Sys2Proof.Machine
end

section
/-! Exceptions (spec/60_exceptions.md, R291 and R292): an invalid request is taken from the requester and raises its
fault, and a faulted block takes no step. -/

namespace Sys2Proof.Machine

/-- R43, with log 6: the step of a faulted block answers its fault. -/
theorem step_of_faulted {s : State} {f : Fault} (hf : s.faulted = some f) : step s = .fault f := by
  rw [step, hf]

theorem step_of_decode_error {s : State} {r : Request} {rest : List Request} {why : InvalidReason}
    (hrun : s.faulted = none) (hreq : s.requests = r :: rest)
    (hdec : decode s.params.regionMap r.q r.d = .error why) :
    step s = .next ((s.take r rest).raise (.invalidRequest why r.q r.d)) := by
  simp only [step, hrun, hreq, hdec, State.rejectRequest]

theorem State.take_raise_sameArrays (s : State) (r : Request) (rest : List Request) (f : Fault) :
    SameArrays s ((s.take r rest).raise f) :=
  ⟨by simp, by simp, by simp⟩

/-- Settles O12: the step takes the command and raises its fault, two updates that leave every other field alone, and
the state they give is faulted. -/
theorem invalidRequestOnlyFaults : Obligations.InvalidRequestOnlyFaults := by
  intro s r rest why hrun hreq hdec
  refine ⟨_, step_of_decode_error hrun hreq hdec, State.raise_faulted _ _, s.take_raise_sameArrays r rest _, ?enabled,
    ?replMask, ?replBiasData, ?replBiasInstr, ?params, ⟨?busAnswers, ?busCalls⟩, ?trace, ?requests, ?stops⟩
  case stops =>
    intro u hstep
    rw [step_of_faulted (State.raise_faulted _ _)] at hstep
    cases hstep
  all_goals simp

end Sys2Proof.Machine
end

section
/-! The encoding family, continued (spec/30_encoding.md): the encoder and the decoder undo one another (R110 to R117),
the reasons a word is invalid (R116, R117), and the pseudo-instructions (R122). -/

namespace Sys2Proof

/-! A word the encoder makes, decoded. -/

theorem sizeOfCode_sizeCode (n : Size) : sizeOfCode (sizeCode n) = some n := by cases n <;> rfl

theorem reqWord_kindBit (w : Bool) (sz : BitVec 2) (k : BitVec 1) (a : Word) :
    (reqWord w sz k a).getLsbD 32 = k.getLsbD 0 := by
  simp only [reqWord, BitVec.getLsbD_append]; simp

theorem decode_reqWord (m : RegionMap) (w : Bool) (n : Size) (k : BitVec 1) (a d : Word) :
    decode m (reqWord w (sizeCode n) k a) d =
      decodeRequest (regionOf m a) w n (kindOfBit (k.getLsbD 0)) a d := by
  have hn : sizeOfCode ((reqWord w (sizeCode n) k a).extractLsb' 33 2) = some n := by
    rw [reqWord_sz, sizeOfCode_sizeCode]
  rw [decode_request m (reqWord_c ..) hn, reqWord_a, reqWord_w, reqWord_kindBit]

theorem decode_ctrlWord (m : RegionMap) (cmd : BitVec 4) (d : Word) :
    decode m (ctrlWord cmd) d = decodeControl cmd d := by
  rw [decode_control m (ctrlWord_c cmd), ctrlWord_cmd]

theorem kindOfBit_kindBit (k : Kind) : kindOfBit ((kindBit k).getLsbD 0) = k := by cases k <;> rfl

/-- A command with an address encodes to a REQ word of the request it is decoded from (R111, R116). -/
theorem encode_request {i : Instr} {a : Word} {r : Region} (h : i.target = some (a, r)) :
    ∃ w n k, (encode i).1 = reqWord w (sizeCode n) k a ∧
      decodeRequest r w n (kindOfBit (k.getLsbD 0)) a (encode i).2 = .ok i := by
  cases i <;> cases h
  case useRdB k | thrRdB k | ioRdB k | unmRdB k | daRdB k =>
    exact ⟨false, .byte, kindBit k, rfl, by rw [kindOfBit_kindBit]; rfl⟩
  case useRdW k | thrRdW k | ioRdW k | unmRdW k | daRdW k =>
    exact ⟨false, .word, kindBit k, rfl, by rw [kindOfBit_kindBit]; rfl⟩
  case useRdL k | thrRdL k | ioRdL k | unmRdL k | aaRdL k | daRdL k =>
    exact ⟨false, .long, kindBit k, rfl, by rw [kindOfBit_kindBit]; rfl⟩
  case useWrB | thrWrB | ioWrB | unmWrB | daWrB => exact ⟨true, .byte, 0#1, rfl, rfl⟩
  case useWrW | thrWrW | ioWrW | unmWrW | daWrW => exact ⟨true, .word, 0#1, rfl, rfl⟩
  case useWrL | thrWrL | ioWrL | unmWrL | prgWrL | aaWrL | daWrL => exact ⟨true, .long, 0#1, rfl, rfl⟩

/-- A command without an address encodes to a CTRL word of its `CMD` (R112). -/
theorem encode_control {i : Instr} (h : i.target = none) :
    ∃ cmd, (encode i).1 = ctrlWord cmd ∧ decodeControl cmd (encode i).2 = .ok i := by
  cases i <;> cases h
  case reset | enable | disable | setrepl => exact ⟨_, rfl, rfl⟩

/-- Settles O2: the word of a command has the fields of the request or control word that decodes to it. -/
theorem decodeEncodeRoundTrip : Obligations.DecodeEncodeRoundTrip := by
  intro m i hwf
  cases htarget : i.target with
  | none =>
    obtain ⟨cmd, hword, hdec⟩ := encode_control htarget
    rw [hword, decode_ctrlWord, hdec]
  | some t =>
    obtain ⟨a, r⟩ := t
    have hregion : regionOf m a = r := hwf (a, r) htarget
    obtain ⟨w, n, k, hword, hdec⟩ := encode_request htarget
    rw [hword, decode_reqWord, hregion, hdec]

/-! A word that decodes, encoded again (R111, R112, R117). -/

/-- The command of a control word encodes to its `CMD`, with the operand if it takes one. -/
theorem encode_of_decodeControl {cmd : BitVec 4} {d : Word} {i : Instr} (h : decodeControl cmd d = .ok i) :
    ignoredBits i = 0x00FFFFFFFF#37 ∧ (encode i).2 = if usesData i then d else 0 := by
  unfold decodeControl at h
  split_ifs at h <;> cases h <;> exact ⟨rfl, by simp [usesData, Instr.target, Instr.row, encode]⟩

/-- The command of a request encodes to the request's fields but for the `K` of a write and the `D` of a read. -/
theorem encode_of_decodeRequest {r : Region} {w : Bool} {n : Size} {k : Kind} {a d : Word} {i : Instr}
    (h : decodeRequest r w n k a d = .ok i) :
    encode i = if w then (reqWord true (sizeCode n) 0#1 a, d) else (reqWord false (sizeCode n) (kindBit k) a, 0) := by
  unfold decodeRequest at h
  split at h <;> cases h <;> rfl

/-- A command with an address takes the operand, and ignores `K`, exactly where its word is a write's (R110, R117). -/
theorem request_usesData {i : Instr} {t : Word × Region} (h : i.target = some t) :
    usesData i = (encode i).1.getLsbD 35 ∧ ignoredBits i = if usesData i then 0x0100000000#37 else 0#37 := by
  simp only [usesData, ignoredBits, h, true_and]

theorem decodeRequest_usesData {r : Region} {w : Bool} {n : Size} {k : Kind} {a d : Word} {i : Instr}
    (h : decodeRequest r w n k a d = .ok i) :
    usesData i = w ∧ ignoredBits i = if w then 0x0100000000#37 else 0#37 := by
  obtain ⟨htarget, -, k', hword⟩ := decodeRequest_ok h
  obtain ⟨huses, hignored⟩ := request_usesData htarget
  rw [hword, reqWord_w] at huses
  exact ⟨huses, by rw [hignored, huses]⟩

/-- Settles O3: the encoder writes back the fields that the decoder has read. -/
theorem decodeKeepsEveryBit : Obligations.DecodeKeepsEveryBit := by
  intro m q d i h
  refine ⟨decode_wellFormed h, ?_⟩
  obtain ⟨hC, hi⟩ | ⟨hC, n, hn, hi⟩ := decode_ok_cases h
  · obtain ⟨-, -, hword⟩ := decodeControl_ok hi
    obtain ⟨hignored, hdata⟩ := encode_of_decodeControl hi
    exact ⟨by rw [hword, hignored, ctrlWord_of_word q hC], hdata⟩
  · obtain ⟨huses, hignored⟩ := decodeRequest_usesData hi
    have henc := encode_of_decodeRequest hi
    rw [← sizeOfCode_eq_some hn] at henc
    rw [huses, hignored, henc]
    cases hW : q.getLsbD 35 with
    | true => exact ⟨reqWord_of_write q hC hW, rfl⟩
    | false => exact ⟨(reqWord_of_read q hC hW).trans BitVec.and_allOnes.symm, rfl⟩

/-! The ignored bits (R117). -/

/-- Two words that agree but for the bits 31:0 have the same fields of a control word. -/
theorem control_fields_of_agree {q q' : CmdWord} (h : q' &&& ~~~0x00FFFFFFFF#37 = q &&& ~~~0x00FFFFFFFF#37) :
    q'.getLsbD 36 = q.getLsbD 36 ∧ q'.extractLsb' 32 4 = q.extractLsb' 32 4 := by
  have hbit : ∀ i, 32 ≤ i → i < 37 → q'.getLsbD i = q.getLsbD i := by
    intro i h32 h37
    have hm : (~~~0x00FFFFFFFF#37).getLsbD i = true := by interval_cases i <;> rfl
    simpa only [BitVec.getLsbD_and, hm, Bool.and_true] using congrArg (·.getLsbD i) h
  refine ⟨hbit 36 (by decide) (by decide), ?_⟩
  apply BitVec.eq_of_getLsbD_eq; intro i hi
  simp only [BitVec.getLsbD_extractLsb', hi, decide_true, Bool.true_and, hbit (32 + i) (by omega) (by omega)]

/-- Two words that agree but for the bit `K` have the same fields of a write. -/
theorem write_fields_of_agree {q q' : CmdWord} (h : q' &&& ~~~0x0100000000#37 = q &&& ~~~0x0100000000#37) :
    q'.getLsbD 36 = q.getLsbD 36 ∧ q'.getLsbD 35 = q.getLsbD 35 ∧ q'.extractLsb' 33 2 = q.extractLsb' 33 2 ∧
      q'.extractLsb' 0 32 = q.extractLsb' 0 32 := by
  have hbit : ∀ i, i < 37 → i ≠ 32 → q'.getLsbD i = q.getLsbD i := by
    intro i h37 h32
    have hm : (~~~0x0100000000#37).getLsbD i = true := by interval_cases i <;> first | rfl | exact absurd rfl h32
    simpa only [BitVec.getLsbD_and, hm, Bool.and_true] using congrArg (·.getLsbD i) h
  refine ⟨hbit 36 (by decide) (by decide), hbit 35 (by decide) (by decide), ?_, ?_⟩ <;>
    apply BitVec.eq_of_getLsbD_eq <;> intro i hi <;>
    simp only [BitVec.getLsbD_extractLsb', hi, decide_true, Bool.true_and]
  · exact hbit _ (by omega) (by omega)
  · exact hbit _ (by omega) (by omega)

/-- A write's kind is no operand. -/
theorem decodeRequest_write_kind (r : Region) (n : Size) (k k' : Kind) (a d : Word) :
    decodeRequest r true n k a d = decodeRequest r true n k' a d := by
  cases r <;> cases n <;> rfl

/-- Settles O4: the decoder reads no ignored bit but the `K` of a write, which no write keeps. -/
theorem ignoredBitsDoNotMatter : Obligations.IgnoredBitsDoNotMatter := by
  intro m q q' d i h hagree
  obtain ⟨hC, hi⟩ | ⟨hC, n, hn, hi⟩ := decode_ok_cases h
  · obtain ⟨hignored, -⟩ := encode_of_decodeControl hi
    obtain ⟨hC', hcmd⟩ := control_fields_of_agree (hignored ▸ hagree)
    rw [decode_control m (hC'.trans hC), hcmd, hi]
  · obtain ⟨-, hignored⟩ := decodeRequest_usesData hi
    rw [hignored] at hagree
    cases hW : q.getLsbD 35 with
    | false =>
      have hq : q' = q := by
        simpa only [hW, Bool.false_eq_true, if_false, BitVec.not_zero, BitVec.and_allOnes] using hagree
      rw [hq, h]
    | true =>
      obtain ⟨hC', hW', hsz, ha⟩ := write_fields_of_agree (by simpa only [hW, if_true] using hagree)
      rw [decode_request m (hC'.trans hC) (hsz ▸ hn), ha, hW', hW,
        decodeRequest_write_kind _ _ _ (kindOfBit (q.getLsbD 32)), ← hi, hW]

/-! Invalid words (R116, R117). -/

/-- Settles O6: by what R120 says of each row, a word that decodes matches its command's row. -/
theorem opcodeRowsPartitionWords : Obligations.OpcodeRowsPartitionWords := by
  refine ⟨fun q r hr r' hr' h h' => opcodeRow_unique hr hr' h h', fun q d => ⟨fun hnone => ?_, ?_⟩⟩
  · cases hi : decode defaultRegionMap q d with
    | ok i => exact absurd (row_matches_of_decode hi) (hnone _ i.row_mem_opcodeRows)
    | error why => exact ⟨why, rfl⟩
  · rintro ⟨why, hwhy⟩ r hr hmatch
    obtain ⟨i, hi, -⟩ := (opcodeRowsDecode q d r hr).mp hmatch
    rw [hwhy] at hi
    cases hi

theorem decodeControl_error_iff (cmd : BitVec 4) (d : Word) (why : InvalidReason) :
    decodeControl cmd d = .error why ↔ why = .reservedCommand ∧ 4 ≤ cmd.toNat := by
  have hcmd : (cmd = 0#4 ∨ cmd = 1#4 ∨ cmd = 2#4 ∨ cmd = 3#4) ↔ ¬4 ≤ cmd.toNat := by revert cmd; decide
  unfold decodeControl
  split_ifs with h0 h1 h2 h3
  case neg =>
    have h4 : 4 ≤ cmd.toNat := by simpa only [h0, h1, h2, h3, or_self, false_iff, not_not] using hcmd
    simp only [Except.error.injEq, h4, and_true, eq_comm]
  all_goals
    have h4 : ¬4 ≤ cmd.toNat := hcmd.mp (by simp only [*, true_or, or_true])
    simp only [h4, and_false]

theorem decode_reservedSize (m : RegionMap) {q : CmdWord} (hC : q.getLsbD 36 = false)
    (hn : sizeOfCode (q.extractLsb' 33 2) = none) (d : Word) : decode m q d = .error .reservedSize := by
  simp only [decode, hC, hn, Bool.false_eq_true, if_false]

theorem sizeOfCode_eq_none_iff (sz : BitVec 2) : sizeOfCode sz = none ↔ sz.toNat = 3 := by
  revert sz; decide

theorem sizeOfCode_eq_long_iff {sz : BitVec 2} {n : Size} (h : sizeOfCode sz = some n) :
    n = .long ↔ sz.toNat = 2 := by
  rw [sizeOfCode_eq_some h]
  cases n <;> decide

/-- The two widths that a request of a known size may have wrong. -/
theorem decodeRequest_error_iff (r : Region) (w : Bool) (n : Size) (k : Kind) (a d : Word) (why : InvalidReason) :
    decodeRequest r w n k a d = .error why ↔
      (why = .purgeWidth ∧ r = .purge ∧ ¬(w = true ∧ n = .long)) ∨
      (why = .addressArrayWidth ∧ r = .addressArray ∧ n ≠ .long) := by
  cases r <;> cases w <;> cases n <;> simp [decodeRequest, eq_comm]

/-- Settles O7: each of the decoder's three cases is one of the field `C`, of `SZ`, and of the region. -/
theorem invalidReasonsExactly : Obligations.InvalidReasonsExactly := by
  intro m q d
  cases hC : q.getLsbD 36 with
  | true =>
    rw [decode_control m hC]
    simp [decodeControl_error_iff]
  | false =>
    cases hn : sizeOfCode (q.extractLsb' 33 2) with
    | none =>
      have h3 := (sizeOfCode_eq_none_iff _).mp hn
      rw [decode_reservedSize m hC hn]
      simp [h3, -BitVec.extractLsb'_toNat]
    | some n =>
      have h3 : (q.extractLsb' 33 2).toNat ≠ 3 := by
        rw [Ne, ← sizeOfCode_eq_none_iff, hn]
        exact Option.some_ne_none n
      rw [decode_request m hC hn]
      simp [decodeRequest_error_iff, h3, sizeOfCode_eq_long_iff hn, -BitVec.extractLsb'_toNat]

/-! The pseudo-instructions (R122). -/

theorem sizeCode_eq (n : Size) : Machine.sizeCode n = sizeCode n := by cases n <;> rfl

open Machine in
/-- A read line decodes by its region (R121, R116). -/
theorem decode_assemble_rd (m : RegionMap) {line : AsmLine} {n : Size} {k : Kind} {a : Word}
    (h : expandAsm line = .rd n k a) :
    decode m (assemble line).1 (assemble line).2 = decodeRequest (regionOf m a) false n k a 0 := by
  simp only [assemble, h, assembleBasic]
  rw [sizeCode_eq, decode_reqWord, kindOfBit_kindBit]

open Machine in
/-- A write line decodes by its region (R121, R116). -/
theorem decode_assemble_wr (m : RegionMap) {line : AsmLine} {n : Size} {a d : Word}
    (h : expandAsm line = .wr n a d) :
    decode m (assemble line).1 (assemble line).2 = decodeRequest (regionOf m a) true n .data a d := by
  simp only [assemble, h, assembleBasic]
  rw [sizeCode_eq, decode_reqWord]
  rfl

theorem decodeRequest_thrRd (n : Size) (k : Kind) (a d : Word) :
    decodeRequest .through false n k a d = .ok (thrRd n k a) := by cases n <;> rfl

theorem decodeRequest_daRd (n : Size) (k : Kind) (a d : Word) :
    decodeRequest .dataArray false n k a d = .ok (daRd n k a) := by cases n <;> rfl

theorem decodeRequest_daWr (n : Size) (k : Kind) (a d : Word) :
    decodeRequest .dataArray true n k a d = .ok (daWr n a d) := by cases n <;> rfl

/-- An address is in the region of its bits 31:29 (R114). -/
theorem regionOf_default_of_top {a : Word} {t : BitVec 3} (h : a.extractLsb' 29 3 = t) :
    regionOf defaultRegionMap a = defaultRegionMap[t.toNat]'t.isLt := by
  subst h; rfl

/-- The regions in which PURGE and UNCACHED.RD place an address (R122). -/
theorem regionOf_placed (a : Word) :
    regionOf defaultRegionMap ((a &&& 0x1FFFFFFC#32) ||| 0x40000000#32) = .purge ∧
      regionOf defaultRegionMap ((a &&& 0x1FFFFFFF#32) ||| 0x20000000#32) = .through := by
  have top : ∀ (mask r : Word), mask.extractLsb' 29 3 = 0#3 →
      ((a &&& mask) ||| r).extractLsb' 29 3 = r.extractLsb' 29 3 := by
    intro mask r hmask
    rw [BitVec.extractLsb'_or, BitVec.extractLsb'_and, hmask, BitVec.and_zero, BitVec.zero_or]
  exact ⟨regionOf_default_of_top (t := 2#3) (top _ _ (by decide)),
    regionOf_default_of_top (t := 1#3) (top _ _ (by decide))⟩

namespace Machine

/-- The fields of the address of an address-array line (R122). -/
theorem asmAddressArray_fields (set : SetIdx) :
    regionOf defaultRegionMap (asmAddressArray set) = .addressArray ∧
      align .long (asmAddressArray set) = asmAddressArray set ∧ setOfAddr (asmAddressArray set) = set := by
  revert set; decide

/-- The fields of the address of a data-array line are disjoint (R122). -/
theorem asmDataArray_eq_append (way : Way) (set : SetIdx) (off : Offset) :
    asmDataArray way set off = 6#3 ++ 0#17 ++ way ++ set ++ off := by
  apply BitVec.eq_of_getLsbD_eq; intro i hi
  simp only [asmDataArray, BitVec.getLsbD_or, BitVec.getLsbD_append, BitVec.getLsbD_shiftLeft,
    BitVec.getLsbD_setWidth]
  interval_cases i <;> simp

theorem asmDataArray_fields (way : Way) (set : SetIdx) (off : Offset) :
    regionOf defaultRegionMap (asmDataArray way set off) = .dataArray ∧
      dataArrayWay (asmDataArray way set off) = way ∧ setOfAddr (asmDataArray way set off) = set ∧
      offOf (asmDataArray way set off) = off := by
  rw [asmDataArray_eq_append]
  refine ⟨regionOf_default_of_top (t := 6#3) ?_, ?_, ?_, ?_⟩ <;>
    apply BitVec.eq_of_getLsbD_eq <;> intro i hi <;>
    simp only [dataArrayWay, setOfAddr, offOf, BitVec.getLsbD_extractLsb', BitVec.getLsbD_append] <;>
    interval_cases i <;> simp

/-- The fields of the data word of AAWRITE (R122, R242). -/
theorem asmAawrite_fields (tagaddr : Word) (v : BitVec 1) (lru : LruBits) (a : Word) :
    let d := (tagaddr &&& 0x1FFFFC00#32) ||| (lru.setWidth 32 <<< 4) ||| (v.setWidth 32 <<< 1)
    writtenTag .data a d = (tagaddr &&& 0x1FFFFC00#32) ||| (v.setWidth 32 <<< 1) ∧ writtenLru d = lru := by
  constructor <;> simp only [writtenTag, writtenLru] <;> apply BitVec.eq_of_getLsbD_eq <;> intro i hi <;>
    simp only [BitVec.getLsbD_extractLsb', BitVec.getLsbD_or, BitVec.getLsbD_and, BitVec.getLsbD_shiftLeft,
      BitVec.getLsbD_setWidth] <;>
    interval_cases i <;> simp

end Machine

open Machine in
/-- Settles O8: each line expands to a read or a write whose address has the fields it was put together from. -/
theorem pseudoInstructionsExpand : Obligations.PseudoInstructionsExpand := by
  refine ⟨fun a => ?_, fun a => ?_, fun set => ?_, fun set tagaddr v lru => ?_, fun n way set off => ?_,
    fun n way set off d => ?_, fun n a => ?_⟩
  · rw [decode_assemble_rd _ rfl]
  · rw [decode_assemble_wr _ rfl, (regionOf_placed a).1]
    rfl
  · obtain ⟨hregion, halign, hset⟩ := asmAddressArray_fields set
    exact ⟨_, by rw [decode_assemble_rd _ rfl, hregion]; rfl, halign, hset⟩
  · obtain ⟨hregion, halign, hset⟩ := asmAddressArray_fields set
    obtain ⟨htag, hlru⟩ := asmAawrite_fields tagaddr v lru (asmAddressArray set)
    exact ⟨_, _, by rw [decode_assemble_wr _ rfl, hregion]; rfl, halign, hset, htag, hlru⟩
  · obtain ⟨hregion, hway, hset, hoff⟩ := asmDataArray_fields way set off
    exact ⟨_, by rw [decode_assemble_rd _ rfl, hregion, decodeRequest_daRd], hway, hset, hoff⟩
  · obtain ⟨hregion, hway, hset, hoff⟩ := asmDataArray_fields way set off
    exact ⟨_, by rw [decode_assemble_wr _ rfl, hregion, decodeRequest_daWr], hway, hset, hoff⟩
  · rw [decode_assemble_rd _ rfl, (regionOf_placed a).2, decodeRequest_thrRd]

/-- Settles O1: the fields of each word, written out. -/
theorem decodesSpecWords : Obligations.DecodesSpecWords := by
  refine ⟨?_, ?_, ?_, ?_, ?_, ?_, ?_, ?_, ?_, ?_, ?_⟩ <;> rfl

end Sys2Proof
end

section
/-! What a command may have done to the arrays and to the control registers: the cases said once, for every command, and
then what the rules of spec/10_state.md section 8 say of every step (R44 to R46), with the frames of R144, R190, R231,
R241 and R323. -/

namespace Sys2Proof.Machine

/-! What a command may have done. -/

/-- What command `i` may have done to the tags. -/
inductive TagsDone (i : Instr) (s t : State) : Prop where
  | kept (tag : ∀ set w, t.tagAt set w = s.tagAt set w)
  | filled (n : Size) (k : Kind) (A : Word) (w : Way) (command : i = useRd n k A) (cached : s.cachedEnabled = true)
      (miss : Misses s (align n A)) (tag : TagInstalled (align n A) w s t)
  | purged (A D : Word) (command : i = .prgWrL A D)
      (tag : ∀ set w, t.tagAt set w =
        if set = setOfAddr A ∧ s.tagAt set w = formTag A then clearValid (s.tagAt set w) else s.tagAt set w)
  | written (A D : Word) (command : i = .aaWrL A D)
      (tag : ∀ set w, t.tagAt set w = if set = setOfAddr A ∧ w = s.aaWay
        then writtenTag s.params.aaWriteSource A D else s.tagAt set w)
  | cleared (command : i = .reset) (tag : ∀ set w, t.tagAt set w = 0)

/-- What command `i` may have done to the LRU states. -/
inductive LruDone (i : Instr) (s t : State) : Prop where
  | kept (lru : ∀ set, t.lruAt set = s.lruAt set)
  | used (a : Word) (w : Way) (command : (∃ n k A, i = useRd n k A) ∨ ∃ n A D, i = useWr n A D)
      (lru : LruUsed a w s t)
  | written (A D : Word) (command : i = .aaWrL A D)
  | cleared (command : i = .reset) (lru : ∀ set, t.lruAt set = 0)

/-- What command `i` may have done to the data storage. -/
inductive LinesDone (i : Instr) (s t : State) : Prop where
  | kept (lines : t.lines = s.lines)
  | stored (command : (∃ n k A, i = useRd n k A) ∨ (∃ n A D, i = useWr n A D) ∨ ∃ n A D, i = daWr n A D)
      (wf : Memory.wf s.lines = true → Memory.wf t.lines = true)
  | cleared (command : i = .reset) (lines : t.lines = [])

/-- What command `i` may have done to the arrays and, where it has an address, to the control registers. -/
structure ArraysDone (i : Instr) (s t : State) : Prop where
  tags : TagsDone i s t
  lru : LruDone i s t
  lines : LinesDone i s t
  control : i.target ≠ none → SameControl s t

theorem BusOnly.arraysDone {s t : State} (h : BusOnly s t) (i : Instr) : ArraysDone i s t :=
  ⟨.kept h.tag, .kept h.lru, .kept h.lines, fun _ => h.control⟩

theorem State.noteAlign_respond_busOnly (s : State) (n : Size) (a : Word) (v : Option Word) (c : Nat) :
    BusOnly s ((s.noteAlign n a).respond v c) := by
  obtain ⟨harrays, hcontrol, -, -⟩ := s.noteAlign_respond_onlyOutput n a v c
  exact ⟨harrays.tag, harrays.lru, harrays.line, by simp, hcontrol⟩

/-- Only a cached read fills a line. -/
theorem State.useRead_arraysDone (s : State) (n : Size) (k : Kind) (A : Word) :
    ArraysDone (useRd n k A) s (s.useRead n k A) := by
  cases hc : s.cachedEnabled with
  | false =>
    rw [State.useRead_bypasses hc]
    exact (s.passRead_only n A).arraysDone _
  | true =>
    have hcmd : ∃ n' k' A', useRd n k A = useRd n' k' A' := ⟨n, k, A, rfl⟩
    obtain ⟨hdone, hcontrol⟩ := s.useRead_done n k A
    cases hdone with
    | kept tag lru line lines =>
      refine ⟨.kept tag, ?_, .kept lines, fun _ => hcontrol⟩
      obtain hkept | ⟨w, hused⟩ := lru
      · exact .kept hkept
      · exact .used _ w (.inl hcmd) hused
    | filled w miss tag lru wf =>
      exact ⟨.filled n k A w rfl hc miss tag, .used _ w (.inl hcmd) lru, .stored (.inl hcmd) wf, fun _ => hcontrol⟩

theorem State.useWrite_arraysDone (s : State) (n : Size) (A D : Word) :
    ArraysDone (useWr n A D) s (s.useWrite n A D) := by
  have hcmd : ∃ n' A' D', useWr n A D = useWr n' A' D' := ⟨n, A, D, rfl⟩
  obtain ⟨htag, hlru, hcontrol, hwf⟩ := s.useWrite_done n A D
  refine ⟨.kept htag, ?_, .stored (.inr (.inl hcmd)) hwf, fun _ => hcontrol⟩
  obtain hkept | ⟨w, hused⟩ := hlru
  · exact .kept hkept
  · exact .used _ w (.inr hcmd) hused

theorem SameControl.respond {s t : State} (h : SameControl s t) (v : Option Word) (c : Nat) :
    SameControl s (t.respond v c) :=
  ⟨h.enabled, h.replMask, h.replBiasData, h.replBiasInstr, h.params, h.cfgCacheEnable, h.aaWay, h.requests⟩

theorem exec_prgWrL_arraysDone {s t : State} {A D : Word} (h : exec (.prgWrL A D) s = .next t) :
    ArraysDone (.prgWrL A D) s t := by
  obtain ⟨u, htag, hu, he⟩ := exec_prgWrL_eq s A D
  cases h.symm.trans he
  refine ⟨.purged A D rfl htag, .kept fun set => ?_, .kept ?_, fun _ => hu.control.of_noteAlign.respond _ _⟩
  · simpa using hu.lru set
  · simpa using hu.lines

theorem State.addressArrayWrite_arraysDone (s : State) (A D : Word) :
    ArraysDone (.aaWrL A D) s (s.addressArrayWrite A D) := by
  rw [State.addressArrayWrite_eq]
  refine ⟨.written A D rfl fun set w => ?_, .written A D rfl, .kept (by simp), fun _ =>
    .of_noteAlign (n := .long) (a := A) ⟨rfl, rfl, rfl, rfl, rfl, rfl, rfl, rfl⟩⟩
  rw [State.respond_tagAt, State.setLru_tagAt, State.tagAt_setTag, State.noteAlign_tagAt]

theorem State.dataArrayWrite_arraysDone (s : State) (n : Size) (A D : Word) :
    ArraysDone (daWr n A D) s (s.dataArrayWrite n A D) := by
  rw [State.dataArrayWrite_eq]
  refine ⟨.kept (by simp), .kept (by simp), .stored (.inr (.inr ⟨n, A, D, rfl⟩)) fun hwf => ?_, fun _ => ?_⟩
  · exact State.wf_lineWrite (s := s.noteAlign n A) (by simpa using hwf) _ _ _ n D
  · constructor <;> simp

theorem exec_arraysDone {i : Instr} {s t : State} (h : exec i s = .next t) : ArraysDone i s t := by
  cases shape i with
  | useRd n k a => cases h.symm.trans (exec_useRd ..); exact s.useRead_arraysDone n k a
  | useWr n a d => cases h.symm.trans (exec_useWr ..); exact s.useWrite_arraysDone n a d
  | thrRd n k a => cases h.symm.trans (exec_thrRd ..); exact (s.passRead_only n a).arraysDone _
  | thrWr n a d => cases h.symm.trans (exec_thrWr ..); exact (s.passWrite_only n a d).arraysDone _
  | ioRd n k a => cases h.symm.trans (exec_ioRd ..); exact (s.passRead_only n a).arraysDone _
  | ioWr n a d => cases h.symm.trans (exec_ioWr ..); exact (s.passWrite_only n a d).arraysDone _
  | unmRd n k a => cases h.symm.trans (exec_unmRd ..); exact (s.passRead_only n a).arraysDone _
  | unmWr n a d => cases h.symm.trans (exec_unmWr ..); exact (s.passWrite_only n a d).arraysDone _
  | prgWrL a d => exact exec_prgWrL_arraysDone h
  | aaRdL k a =>
    cases h
    rw [State.addressArrayRead_eq]
    exact (s.noteAlign_respond_busOnly ..).arraysDone _
  | aaWrL a d => cases h; exact s.addressArrayWrite_arraysDone a d
  | daRd n k a =>
    cases h.symm.trans (exec_daRd ..)
    rw [State.dataArrayRead_eq]
    exact (s.noteAlign_respond_busOnly ..).arraysDone _
  | daWr n a d => cases h.symm.trans (exec_daWr ..); exact s.dataArrayWrite_arraysDone n a d
  | reset =>
    cases h
    exact ⟨.cleared rfl (by simp), .cleared rfl (by simp), .cleared rfl rfl, fun hnone => absurd rfl hnone⟩
  | enable | disable | setrepl d =>
    cases h
    exact ⟨.kept (by simp), .kept (by simp), .kept rfl, fun hnone => absurd rfl hnone⟩

/-! The tags (R44, R46, R34). -/

theorem clearValid_not_valid (t : Word) : (clearValid t).getLsbD 1 = false := by simp [clearValid]

theorem clearValid_ne_formTag (t a : Word) : clearValid t ≠ formTag a := by
  intro h
  have hvalid := formTag_valid a
  rw [← h, clearValid_not_valid] at hvalid
  cases hvalid

theorem zero_ne_formTag (a : Word) : (0 : Word) ≠ formTag a := by
  intro h
  have hvalid := formTag_valid a
  rw [← h] at hvalid
  cases hvalid

/-- The way that a refill installs is the only one of its set with the formed tag. -/
theorem noDuplicateTags_of_installed {s t : State} {a : Word} {v : Way} (hs : NoDuplicateTags s) (hmiss : Misses s a)
    (htag : TagInstalled a v s t) : NoDuplicateTags t := by
  intro set w w' heq hvalid
  rw [htag set w] at heq hvalid
  rw [htag set w'] at heq
  split_ifs at heq hvalid with hw hw' hw'
  · rw [hw.2, hw'.2]
  · obtain ⟨rfl, -⟩ := hw
    exact absurd heq.symm (hmiss w')
  · obtain ⟨rfl, -⟩ := hw'
    exact absurd heq (hmiss w)
  · exact hs set w w' heq hvalid

/-- Clearing V in some ways leaves the valid tags a part of what they were. -/
theorem noDuplicateTags_of_kept_or_invalid {s t : State} (hs : NoDuplicateTags s)
    (htag : ∀ set w, t.tagAt set w = s.tagAt set w ∨ (t.tagAt set w).getLsbD 1 = false) : NoDuplicateTags t := by
  intro set w w' heq hvalid
  have kept : ∀ v, t.tagAt set v = t.tagAt set w → t.tagAt set v = s.tagAt set v := fun v hv =>
    (htag set v).resolve_right (by rw [hv, hvalid]; decide)
  rw [kept w rfl] at heq hvalid
  exact hs set w w' (heq.trans (kept w' (by rw [kept w rfl, heq]))) hvalid

/-- Settles O49: a refill installs its tag in one way of a set that does not hold it, and any other command leaves a
tag or takes its V away. -/
theorem onlyAddressArrayDuplicatesTags : Obligations.OnlyAddressArrayDuplicatesTags := by
  intro i s t hnot hs h
  cases (exec_arraysDone h).tags with
  | kept tag => exact noDuplicateTags_of_kept_or_invalid hs fun set w => .inl (tag set w)
  | filled n k A w _ _ miss tag => exact noDuplicateTags_of_installed hs miss tag
  | purged A D _ tag =>
    refine noDuplicateTags_of_kept_or_invalid hs fun set w => ?_
    rw [tag set w]
    split
    · exact .inr (clearValid_not_valid _)
    · exact .inl rfl
  | written A D command => exact absurd command (hnot A D)
  | cleared _ tag => exact noDuplicateTags_of_kept_or_invalid hs fun set w => .inr (by rw [tag]; rfl)

theorem misses_of_tags_kept_or_unformed {s t : State} {a : Word} (hs : Misses s a)
    (htag : ∀ w, t.tagAt (setOfAddr a) w = s.tagAt (setOfAddr a) w ∨ t.tagAt (setOfAddr a) w ≠ formTag a) :
    Misses t a := by
  intro w
  obtain hkept | hne := htag w
  · rw [hkept]; exact hs w
  · exact hne

/-- An address outside the filled line misses after a refill if it missed before. -/
theorem misses_of_installed {s t : State} {a b : Word} {w : Way} (hs : Misses s a) (htag : TagInstalled b w s t)
    (hne : ¬SameLine a b) : Misses t a := by
  refine misses_of_tags_kept_or_unformed hs fun w' => ?_
  rw [htag (setOfAddr a) w']
  split_ifs with hw
  · exact .inr fun hform => hne (sameLine_of_fields hw.1 hform.symm)
  · exact .inl rfl

/-- Settles O50: RESET leaves no valid tag, and of the commands that write a tag only a refill and an address-array
write can write a formed one. -/
theorem onlyRefillOrArrayWriteMakesHits : Obligations.OnlyRefillOrArrayWriteMakesHits := by
  refine ⟨fun s t h a => ?_, fun i s t a h hmiss hhit => ?_⟩
  · obtain ⟨u, hu, htag, -⟩ := resetClearsBlock s
    cases h.symm.trans hu
    exact State.lookup_eq_none.mpr fun w => by rw [htag]; exact zero_ne_formTag a
  · rw [State.lookup_eq_none] at hmiss
    rw [Ne, State.lookup_eq_none] at hhit
    cases (exec_arraysDone h).tags with
    | kept tag => exact absurd (misses_of_tags_kept_or_unformed hmiss fun w => .inl (tag _ w)) hhit
    | filled n k A w command cached _ tag =>
      refine .inr ⟨n, k, A, command, cached, ?_⟩
      by_contra hne
      exact hhit (misses_of_installed hmiss tag fun hline => hne (hline.trans (sameLine_align n A)))
    | purged A D _ tag =>
      refine absurd (misses_of_tags_kept_or_unformed hmiss fun w => ?_) hhit
      rw [tag]
      split
      · exact .inr (clearValid_ne_formTag _ a)
      · exact .inl rfl
    | written A D command => exact .inl ⟨A, D, command⟩
    | cleared _ tag =>
      exact absurd (misses_of_tags_kept_or_unformed hmiss fun w => .inr (by rw [tag]; exact zero_ne_formTag a)) hhit

/-! The control registers and the arrays of every command. -/

/-- Settles O54: a command with an address writes no control register, and the other four are written out. -/
theorem controlWrittenOnlyByControl : Obligations.ControlWrittenOnlyByControl := by
  intro i s t h
  by_cases htarget : i.target = none
  · cases i <;> cases htarget <;> cases h <;> simp
  · obtain ⟨henabled, hmask, hdata, hinstr, hparams, hcfg, hway, hrequests⟩ := (exec_arraysDone h).control htarget
    exact ⟨hparams, hcfg, hway, hrequests, fun _ _ _ => henabled, fun _ _ => ⟨hmask, hdata, hinstr⟩⟩

theorem lineByte_eq_of_lines {s t : State} (h : t.lines = s.lines) (set : SetIdx) (w : Way) (o : Offset) :
    t.lineByte set w o = s.lineByte set w o := by
  rw [State.lineByte, State.lineByte, h]

/-- Settles O55: each array is kept by every command that is not named as a writer of it. -/
theorem arraysWrittenOnlyBy : Obligations.ArraysWrittenOnlyBy := by
  intro i s t h hreset
  obtain ⟨htags, hlru, hlines, -⟩ := exec_arraysDone h
  refine ⟨fun hrd hprg haa => ?_, fun hrd hwr hda => ?_, fun hrd hwr haa => ?_⟩
  · cases htags with
    | kept tag => exact tag
    | filled n k A _ command => exact absurd command (hrd n k A)
    | purged A D command => exact absurd command (hprg A D)
    | written A D command => exact absurd command (haa A D)
    | cleared command => exact absurd command hreset
  · cases hlines with
    | kept lines => exact lineByte_eq_of_lines lines
    | stored command =>
      obtain ⟨n, k, A, rfl⟩ | ⟨n, A, D, rfl⟩ | ⟨n, A, D, rfl⟩ := command
      · exact absurd rfl (hrd n k A)
      · exact absurd rfl (hwr n A D)
      · exact absurd rfl (hda n A D)
    | cleared command => exact absurd command hreset
  · cases hlru with
    | kept lru => exact lru
    | used _ _ command =>
      obtain ⟨n, k, A, rfl⟩ | ⟨n, A, D, rfl⟩ := command
      · exact absurd rfl (hrd n k A)
      · exact absurd rfl (hwr n A D)
    | written A D command => exact absurd command (haa A D)
    | cleared command => exact absurd command hreset

/-! The LRU states (R36 to R38, R45). -/

theorem DefaultTables.plruUpdate_eq {p : Params} (hp : DefaultTables p) (l : LruBits) (w : Way) :
    plruUpdate p l w = (l &&& defaultPlruAnd[w.toNat]'w.isLt) ||| defaultPlruOr[w.toNat]'w.isLt := by
  simp only [plruUpdate, hp.plruAnd, hp.plruOr]

/-- A use of a way leads from one order of use of the four ways to another. -/
theorem plruUpdate_mem_orderedLru {p : Params} (hp : DefaultTables p) {l : LruBits} (hl : l ∈ orderedLru) (w : Way) :
    plruUpdate p l w ∈ orderedLru := by
  rw [hp.plruUpdate_eq]
  revert l w
  decide

/-- Each order of use has a victim. -/
theorem victim_of_orderedLru : ∀ l ∈ orderedLru, ∃ w, defaultVictimTable[l.toNat]'l.isLt = some w := by
  decide

theorem State.rawVictim_eq {s : State} (hp : DefaultTables s.params) (hmask : s.replMask = 0x3F#6) (set : SetIdx) :
    s.rawVictim set = defaultVictimTable[(s.lruAt set).toNat]'(s.lruAt set).isLt := by
  have hand : s.lruAt set &&& s.replMask = s.lruAt set := by rw [hmask]; exact BitVec.and_allOnes
  simp only [State.rawVictim, hp.victimTable, hand]

/-- Settles O51: a command keeps a set's LRU state, or makes it that of another use, or RESET's 0. -/
theorem onlyAddressArrayLeavesLruOrder : Obligations.OnlyAddressArrayLeavesLruOrder := by
  intro i s t hp hnot hs h
  have hlru : ∀ set, t.lruAt set ∈ orderedLru := by
    intro set
    cases (exec_arraysDone h).lru with
    | kept lru => rw [lru]; exact hs set
    | used a w _ lru =>
      rw [lru set]
      split
      · exact plruUpdate_mem_orderedLru hp (hs _) w
      · exact hs set
    | written A D command => exact absurd command (hnot A D)
    | cleared _ lru => rw [lru]; decide
  refine ⟨hlru, fun hmask set k => ?_⟩
  obtain ⟨hparams, -⟩ := controlWrittenOnlyByControl i s t h
  obtain ⟨w, hw⟩ := victim_of_orderedLru _ (hlru set)
  exact ⟨w ||| t.replBias k, by rw [State.selectVictim, State.rawVictim_eq (hparams ▸ hp) hmask, hw]; rfl⟩

/-- The uses of four ways, from an LRU state `l`. -/
def useFour (p : Params) (w₀ w₁ w₂ w₃ : Way) (l : LruBits) : LruBits :=
  plruUpdate p (plruUpdate p (plruUpdate p (plruUpdate p l w₀) w₁) w₂) w₃

/-- What a use of four ways keeps of the state before is what all four AND masks keep. -/
theorem useFour_eq (p : Params) (w₀ w₁ w₂ w₃ : Way) (l : LruBits) :
    useFour p w₀ w₁ w₂ w₃ l = (l &&& (p.plruAnd[w₀.toNat]'w₀.isLt &&& p.plruAnd[w₁.toNat]'w₁.isLt &&&
      p.plruAnd[w₂.toNat]'w₂.isLt &&& p.plruAnd[w₃.toNat]'w₃.isLt)) ||| useFour p w₀ w₁ w₂ w₃ 0 := by
  apply BitVec.eq_of_getLsbD_eq
  intro i _
  simp only [useFour, plruUpdate, BitVec.getLsbD_and, BitVec.getLsbD_or, BitVec.ofNat_eq_ofNat, BitVec.getLsbD_zero,
    Bool.and_or_distrib_right, Bool.and_assoc, Bool.or_assoc, Bool.false_and, Bool.false_or]

/-- Four different ways: the masks keep nothing, and the victim of what the uses leave is the way used first. -/
theorem victim_of_four_uses : ∀ w₀ w₁ w₂ w₃ : Way, [w₀, w₁, w₂, w₃].Nodup →
    (defaultPlruAnd[w₀.toNat]'w₀.isLt &&& defaultPlruAnd[w₁.toNat]'w₁.isLt &&& defaultPlruAnd[w₂.toNat]'w₂.isLt &&&
      defaultPlruAnd[w₃.toNat]'w₃.isLt) = 0 ∧
    defaultVictimTable[(useFour defaultParams w₀ w₁ w₂ w₃ 0).toNat]'(useFour defaultParams w₀ w₁ w₂ w₃ 0).isLt =
      some w₀ := by
  decide

theorem DefaultTables.useFour_eq {p : Params} (hp : DefaultTables p) (w₀ w₁ w₂ w₃ : Way) (l : LruBits) :
    useFour p w₀ w₁ w₂ w₃ l = useFour defaultParams w₀ w₁ w₂ w₃ l := by
  have hdefault : DefaultTables defaultParams := ⟨rfl, rfl, rfl⟩
  simp only [useFour, hp.plruUpdate_eq, hdefault.plruUpdate_eq]

/-- Settles O53: the LRU state after uses of all four ways is that of those uses from the state 0. -/
theorem victimIsLeastRecentlyUsed : Obligations.VictimIsLeastRecentlyUsed := by
  intro s set w₀ w₁ w₂ w₃ hp hmask hnodup
  obtain ⟨hkeeps, hvictim⟩ := victim_of_four_uses w₀ w₁ w₂ w₃ hnodup
  have hlru : ((((s.touch set w₀).touch set w₁).touch set w₂).touch set w₃).lruAt set =
      useFour defaultParams w₀ w₁ w₂ w₃ 0 := by
    have hkept := useFour_eq defaultParams w₀ w₁ w₂ w₃ (s.lruAt set)
    rw [show defaultParams.plruAnd = defaultPlruAnd from rfl, hkeeps, BitVec.ofNat_eq_ofNat, BitVec.and_zero,
      BitVec.zero_or] at hkept
    simp only [State.lruAt_touch, if_true, State.touch_params]
    exact (hp.useFour_eq ..).trans hkept
  rw [State.rawVictim_eq (by simpa using hp) (by simpa using hmask)]
  simp only [hlru, hvictim]

/-- Settles O52: all 64 entries. -/
theorem victimTableByConditions : Obligations.VictimTableByConditions := by
  unfold Obligations.VictimTableByConditions
  decide

end Sys2Proof.Machine
end

section
/-! What a command puts out (spec/10_state.md R51, spec/60_exceptions.md R293, spec/70_reset_and_hazards.md R333): bus
calls and diagnostic events, then one response or the one bus call that failed. `Progress` is a command under way, `Output` a
command that has ended. From these follow the invariant of every step, and what every command answers. -/

namespace Sys2Proof.Machine

/-! A command under way. -/

/-- From `s` to `t` a command has made `r` bus reads and `w` bus writes, all answered, and has not responded. -/
structure Progress (r w : Nat) (s t : State) : Prop where
  output : ∃ pre, t.trace = s.trace ++ pre ∧ (∀ x ∈ pre, isResponse x = false ∧ isBusFailure x = false) ∧
    pre.countP isBusRead = r ∧ pre.countP isBusWrite = w
  bus : BusCallsMade (r + w) s t
  faulted : t.faulted = s.faulted

/-- A change of the arrays alone puts nothing out. -/
theorem Progress.of_same {s t : State} (htrace : t.trace = s.trace) (hbus : SameBus s t)
    (hfaulted : t.faulted = s.faulted) : Progress 0 0 s t :=
  ⟨⟨[], by simp [htrace], by simp, rfl, rfl⟩, ⟨hbus.busAnswers, hbus.busCalls⟩, hfaulted⟩

theorem Progress.refl (s : State) : Progress 0 0 s s := .of_same rfl ⟨rfl, rfl⟩ rfl

theorem Progress.trans {r w r' w' : Nat} {s t u : State} (h : Progress r w s t) (h' : Progress r' w' t u) :
    Progress (r + r') (w + w') s u := by
  obtain ⟨⟨pre, htrace, hquiet, hreads, hwrites⟩, hbus, hfaulted⟩ := h
  obtain ⟨⟨pre', htrace', hquiet', hreads', hwrites'⟩, hbus', hfaulted'⟩ := h'
  refine ⟨⟨pre ++ pre', ?_, ?_, ?_, ?_⟩, ⟨?_, ?_⟩, hfaulted'.trans hfaulted⟩
  · rw [htrace', htrace, List.append_assoc]
  · exact fun x hx => (List.mem_append.mp hx).elim (hquiet x) (hquiet' x)
  · rw [List.countP_append, hreads, hreads']
  · rw [List.countP_append, hwrites, hwrites']
  · rw [hbus'.busAnswers, hbus.busAnswers, List.drop_drop, Nat.add_add_add_comm]
  · rw [hbus'.busCalls, hbus.busCalls]; omega

/-- A change of the arrays or registers of a command under way. -/
theorem Progress.same {r w : Nat} {s t u : State} (h : Progress r w s t) (htrace : u.trace = t.trace)
    (hbus : SameBus t u) (hfaulted : u.faulted = t.faulted) : Progress r w s u :=
  h.trans (.of_same htrace hbus hfaulted)

theorem State.emit_diag_progress (s : State) (e : Diag) : Progress 0 0 s (s.emit (.diag e)) :=
  ⟨⟨[.diag e], rfl, by simp [isResponse, isBusFailure], rfl, rfl⟩, ⟨rfl, rfl⟩, rfl⟩

theorem State.noteAlign_progress (s : State) (n : Size) (a : Word) : Progress 0 0 s (s.noteAlign n a) := by
  unfold State.noteAlign
  split
  · exact .refl s
  · exact s.emit_diag_progress _

theorem State.readAnswered_progress (s : State) (a : Word) (n : Size) (v : Word) (c : Option Nat) :
    Progress 1 0 s (s.countCall.emit (.busRead a n (.done v c))) :=
  ⟨⟨[.busRead a n (.done v c)], rfl, by simp [isResponse, isBusFailure], rfl, rfl⟩, ⟨by simp, rfl⟩, rfl⟩

theorem State.writeAnswered_progress (s : State) (a : Word) (n : Size) (d v : Word) (c : Option Nat) :
    Progress 0 1 s (s.countCall.emit (.busWrite a n d (.done v c))) :=
  ⟨⟨[.busWrite a n d (.done v c)], rfl, by simp [isResponse, isBusFailure], rfl, rfl⟩, ⟨by simp, rfl⟩, rfl⟩

/-- The chunk reads of a refill are bus reads, all answered. -/
theorem Refilled.progress {a : Word} {w : Way} {j : Nat} {v : Nat → Word} {c : Nat → Option Nat} {s t : State}
    (h : Refilled a w j v c s t) : Progress j 0 s t := by
  refine ⟨⟨chunkReads a j v c, h.trace, ?_, ?_, ?_⟩, h.bus, h.faulted⟩
  · simp [chunkReads, isResponse, isBusFailure]
  · simp [chunkReads, List.countP_map, Function.comp_def, isBusRead]
  · simp [chunkReads, List.countP_map, Function.comp_def, isBusWrite]

/-! A command that has ended. -/

/-- How a command ends: with its response, or with one of its at most four bus calls, which the bus has failed. -/
inductive EndsIn (s t : State) (e : Event) : Prop where
  | responded (v : Option Word) (c : Nat) (last : e = .response v c) (faulted : t.faulted = s.faulted)
  | failed (j : Nat) (a : Word) (n : Size) (call : j < 4) (answer : s.answerAt j a n = .fatal)
      (last : e = .busRead a n .fatal ∨ ∃ v, e = .busWrite a n v .fatal) (faulted : t.faulted = some (.busFault a n))

/-- From `s` to `t` a command has made `r` bus reads and `w` bus writes and has ended. -/
structure Output (r w : Nat) (s t : State) : Prop where
  trace : ∃ pre e, t.trace = s.trace ++ pre ++ [e] ∧ (∀ x ∈ pre, isResponse x = false ∧ isBusFailure x = false) ∧
    (pre ++ [e]).countP isBusRead = r ∧ (pre ++ [e]).countP isBusWrite = w ∧ EndsIn s t e
  busCalls : t.busCalls = s.busCalls + (r + w)

theorem Progress.respond {r w : Nat} {s t : State} (h : Progress r w s t) (v : Option Word) (c : Nat) :
    Output r w s (t.respond v c) := by
  obtain ⟨⟨pre, htrace, hquiet, hreads, hwrites⟩, hbus, hfaulted⟩ := h
  refine ⟨⟨pre, .response v c, ?_, hquiet, ?_, ?_, .responded v c rfl hfaulted⟩, hbus.busCalls⟩
  · rw [State.respond_trace, htrace]
  · simp [List.countP_append, hreads, isBusRead]
  · simp [List.countP_append, hwrites, isBusWrite]

/-- The next bus call of a command under way is answered by the next answer of the state it began in. -/
theorem Progress.nextAnswer {r w : Nat} {s t : State} (h : Progress r w s t) (a : Word) (n : Size) :
    t.nextAnswer a n = s.answerAt (r + w) a n := by
  rw [State.nextAnswer_eq_answerAt]
  simp only [State.answerAt, h.bus.busAnswers, h.bus.busCalls, List.getElem?_drop, Nat.add_zero]

section
variable {r w : Nat} {s t : State} (h : Progress r w s t) (hcall : r + w < 4) (a : Word) (n : Size)
include h hcall

theorem Progress.readFailed (hf : t.nextAnswer a n = .fatal) :
    Output (r + 1) w s ((t.countCall.emit (.busRead a n .fatal)).raise (.busFault a n)) := by
  have hans := (h.nextAnswer a n).symm.trans hf
  obtain ⟨⟨pre, htrace, hquiet, hreads, hwrites⟩, hbus, hfaulted⟩ := h
  refine ⟨⟨pre, .busRead a n .fatal, ?_, hquiet, ?_, ?_, .failed _ a n hcall hans (.inl rfl) rfl⟩, ?_⟩
  · simp [htrace]
  · simp [List.countP_append, hreads, isBusRead]
  · simp [List.countP_append, hwrites, isBusWrite]
  · simp [hbus.busCalls]; omega

theorem Progress.writeFailed (d : Word) (hf : t.nextAnswer a n = .fatal) :
    Output r (w + 1) s ((t.countCall.emit (.busWrite a n d .fatal)).raise (.busFault a n)) := by
  have hans := (h.nextAnswer a n).symm.trans hf
  obtain ⟨⟨pre, htrace, hquiet, hreads, hwrites⟩, hbus, hfaulted⟩ := h
  refine ⟨⟨pre, .busWrite a n d .fatal, ?_, hquiet, ?_, ?_, .failed _ a n hcall hans (.inr ⟨d, rfl⟩) rfl⟩, ?_⟩
  · simp [htrace]
  · simp [List.countP_append, hreads, isBusRead]
  · simp [List.countP_append, hwrites, isBusWrite]
  · simp [hbus.busCalls]; omega

theorem Progress.busRead : Output (r + 1) w s (t.busRead a n) := by
  obtain ⟨v, c, -, he⟩ | ⟨hf, he⟩ := t.busRead_cases a n <;> rw [he]
  · exact (h.trans (t.readAnswered_progress a n v c)).respond _ _
  · exact h.readFailed hcall a n hf

theorem Progress.busWrite (d : Word) : Output r (w + 1) s (t.busWrite a n d) := by
  obtain ⟨v, c, -, he⟩ | ⟨hf, he⟩ := t.busWrite_cases a n d <;> rw [he]
  · exact (h.trans (t.writeAnswered_progress a n _ v c)).respond _ _
  · exact h.writeFailed hcall a n _ hf

end

/-! Every command. -/

theorem State.passRead_output (s : State) (n : Size) (a : Word) : Output 1 0 s (s.passRead n a) :=
  (s.noteAlign_progress n a).busRead (by decide) _ n

theorem State.passWrite_output (s : State) (n : Size) (a d : Word) : Output 0 1 s (s.passWrite n a d) :=
  (s.noteAlign_progress n a).busWrite (by decide) _ n d

/-- A read hit reads the bus only where it is checked. -/
theorem Progress.readHit {s t : State} (h : Progress 0 0 s t) (a : Word) (n : Size) (w : Way) :
    ∃ r ≤ 1, Output r 0 s (t.readHit a n w) := by
  have htouch : Progress 0 0 s (t.touch (setOfAddr a) w) := h.same rfl ⟨rfl, rfl⟩ rfl
  cases hcheck : t.params.coherencyCheck with
  | false =>
    rw [State.readHit_unchecked hcheck]
    exact ⟨0, by decide, htouch.respond _ _⟩
  | true =>
    refine ⟨1, le_refl 1, ?_⟩
    cases hb : t.nextAnswer a n with
    | done b c =>
      have hread := htouch.trans ((t.touch (setOfAddr a) w).readAnswered_progress a n b c)
      rw [State.readHit_checked hcheck hb]
      dsimp only
      split
      · exact hread.respond _ _
      · exact (hread.trans (State.emit_diag_progress _ _)).respond _ _
    | fatal =>
      rw [State.readHit_fatal hcheck hb]
      exact htouch.readFailed (by decide) a n (by simpa using hb)

theorem Progress.refillRead {s t : State} (h : Progress 0 0 s t) (a : Word) (n : Size) (w : Way) :
    ∃ r, 1 ≤ r ∧ r ≤ 4 ∧ Output r 0 s (t.refillRead a n w) := by
  obtain ⟨v, c, u, -, hu, he⟩ | ⟨j, v, c, u, hj, hf, hu, he⟩ := t.refillRead_cases a n w <;> rw [he]
  · exact ⟨4, by decide, le_refl 4, (h.trans hu.progress).respond _ _⟩
  · have hpre := h.trans hu.progress
    rw [Nat.zero_add] at hpre
    have hans : u.nextAnswer (chunkAddr a j) .long = .fatal := by
      rw [hu.progress.nextAnswer, Nat.add_zero, hf]
    exact ⟨j + 1, by omega, by omega, hpre.readFailed (by omega) _ _ hans⟩

/-- A read that does not hit reads the bus. -/
theorem State.useRead_output (s : State) (n : Size) (k : Kind) (A : Word) :
    ∃ r ≤ 4, Output r 0 s (s.useRead n k A) ∧ (s.lookup (align n A) = none → 1 ≤ r) := by
  have bus : ∃ r ≤ 4, Output r 0 s (s.passRead n A) ∧ (s.lookup (align n A) = none → 1 ≤ r) :=
    ⟨1, by decide, s.passRead_output n A, fun _ => le_refl 1⟩
  cases hc : s.cachedEnabled with
  | false => rw [State.useRead_bypasses hc]; exact bus
  | true =>
    cases hl : s.lookup (align n A) with
    | some w =>
      rw [State.useRead_hit hc (State.lookup_eq_some.mp hl)]
      obtain ⟨r, hr, hout⟩ := (s.noteAlign_progress n A).readHit (align n A) n w
      exact ⟨r, by omega, hout, fun hnone => by cases hnone⟩
    | none =>
      have hmiss := State.lookup_eq_none.mp hl
      cases hv : victimEntry s (align n A) with
      | none =>
        rw [State.useRead_noVictim hc hmiss hv]
        simpa only [hl] using bus
      | some raw =>
        obtain ⟨hcfg, hen⟩ := (Bool.and_eq_true ..).mp hc
        rw [State.useRead_refills ⟨hcfg, hen, hmiss, raw, hv, rfl⟩]
        obtain ⟨r, hpos, hr, hout⟩ := (s.noteAlign_progress n A).refillRead (align n A) n (raw ||| s.replBias k)
        exact ⟨r, hr, hout, fun _ => hpos⟩

theorem State.useWrite_output (s : State) (n : Size) (A D : Word) : Output 0 1 s (s.useWrite n A D) := by
  cases hc : s.cachedEnabled with
  | false => rw [State.useWrite_bypasses hc]; exact s.passWrite_output n A D
  | true =>
    cases hl : s.lookup (align n A) with
    | none => rw [State.useWrite_miss hc (State.lookup_eq_none.mp hl)]; exact s.passWrite_output n A D
    | some w =>
      have hhit : Progress 0 0 (s.noteAlign n A) ((s.noteAlign n A).writeHit (align n A) n w D) := by
        unfold State.writeHit
        split <;> exact .of_same (by simp) ⟨by simp, by simp⟩ (by simp)
      rw [State.useWrite_cached hc]
      simp only [State.cachedWrite, State.noteAlign_lookup, hl]
      exact ((s.noteAlign_progress n A).trans hhit).busWrite (by decide) _ n D

theorem State.noteAlign_respond_output (s : State) (n : Size) (a : Word) (v : Option Word) (c : Nat) :
    Output 0 0 s ((s.noteAlign n a).respond v c) :=
  (s.noteAlign_progress n a).respond v c

theorem exec_prgWrL_output (s : State) (A D : Word) : ∃ t, exec (.prgWrL A D) s = .next t ∧ Output 0 0 s t := by
  obtain ⟨u, -, hu, he⟩ := exec_prgWrL_eq s A D
  exact ⟨_, he, ((s.noteAlign_progress .long A).same hu.trace hu.bus hu.faulted).respond _ _⟩

theorem State.addressArrayWrite_output (s : State) (A D : Word) : Output 0 0 s (s.addressArrayWrite A D) := by
  rw [State.addressArrayWrite_eq]
  refine Progress.respond ?_ _ _
  exact (s.noteAlign_progress .long A).same rfl ⟨rfl, rfl⟩ rfl

theorem State.dataArrayWrite_output (s : State) (n : Size) (A D : Word) : Output 0 0 s (s.dataArrayWrite n A D) := by
  rw [State.dataArrayWrite_eq]
  exact Progress.respond ((s.noteAlign_progress n A).same (by simp) ⟨by simp, by simp⟩ (by simp)) _ _

/-- A command that accesses no bus: the purge, the windows and the control commands. -/
def NoBusCommand (i : Instr) : Prop :=
  (∀ n k A, i ≠ useRd n k A ∧ i ∉ passRds n k A) ∧ ∀ n A D, i ≠ useWr n A D ∧ i ∉ passWrs n A D

/-- Every command answers a next state and puts out its calls and its end. -/
theorem exec_output (i : Instr) (s : State) :
    ∃ t r w, exec i s = .next t ∧ Output r w s t ∧ (NoBusCommand i → r = 0 ∧ w = 0) := by
  cases shape i with
  | useRd n k a =>
    obtain ⟨r, -, hout, -⟩ := s.useRead_output n k a
    exact ⟨_, r, 0, exec_useRd .., hout, fun hno => absurd rfl (hno.1 n k a).1⟩
  | useWr n a d =>
    exact ⟨_, 0, 1, exec_useWr .., s.useWrite_output n a d, fun hno => absurd rfl (hno.2 n a d).1⟩
  | thrRd n k a =>
    exact ⟨_, 1, 0, exec_thrRd .., s.passRead_output n a, fun hno => absurd (by simp [passRds]) (hno.1 n k a).2⟩
  | thrWr n a d =>
    exact ⟨_, 0, 1, exec_thrWr .., s.passWrite_output n a d, fun hno => absurd (by simp [passWrs]) (hno.2 n a d).2⟩
  | ioRd n k a =>
    exact ⟨_, 1, 0, exec_ioRd .., s.passRead_output n a, fun hno => absurd (by simp [passRds]) (hno.1 n k a).2⟩
  | ioWr n a d =>
    exact ⟨_, 0, 1, exec_ioWr .., s.passWrite_output n a d, fun hno => absurd (by simp [passWrs]) (hno.2 n a d).2⟩
  | unmRd n k a =>
    exact ⟨_, 1, 0, exec_unmRd .., s.passRead_output n a, fun hno => absurd (by simp [passRds]) (hno.1 n k a).2⟩
  | unmWr n a d =>
    exact ⟨_, 0, 1, exec_unmWr .., s.passWrite_output n a d, fun hno => absurd (by simp [passWrs]) (hno.2 n a d).2⟩
  | prgWrL a d =>
    obtain ⟨t, he, hout⟩ := exec_prgWrL_output s a d
    exact ⟨t, 0, 0, he, hout, fun _ => ⟨rfl, rfl⟩⟩
  | aaRdL k a =>
    exact ⟨_, 0, 0, congrArg Host.Outcome.next (s.addressArrayRead_eq a), s.noteAlign_respond_output ..,
      fun _ => ⟨rfl, rfl⟩⟩
  | aaWrL a d => exact ⟨_, 0, 0, rfl, s.addressArrayWrite_output a d, fun _ => ⟨rfl, rfl⟩⟩
  | daRd n k a =>
    exact ⟨_, 0, 0, (exec_daRd ..).trans (congrArg Host.Outcome.next (s.dataArrayRead_eq n a)),
      s.noteAlign_respond_output .., fun _ => ⟨rfl, rfl⟩⟩
  | daWr n a d => exact ⟨_, 0, 0, exec_daWr .., s.dataArrayWrite_output n a d, fun _ => ⟨rfl, rfl⟩⟩
  | reset | enable | disable | setrepl d =>
    refine ⟨_, 0, 0, rfl, Progress.respond ?_ _ _, fun _ => ⟨rfl, rfl⟩⟩
    exact .of_same rfl ⟨rfl, rfl⟩ rfl

/-- The output of the next state that a command is known to answer. -/
theorem output_of_exec {i : Instr} {s t : State} (h : exec i s = .next t) : ∃ r w, Output r w s t := by
  obtain ⟨u, r, w, hu, hout, -⟩ := exec_output i s
  cases h.symm.trans hu
  exact ⟨r, w, hout⟩

/-! What every command answers. -/

/-- Settles O15: the end of what the command puts out is its response or the failed call. -/
theorem oneResponsePerCommand : Obligations.OneResponsePerCommand := by
  intro i s
  obtain ⟨t, r, w, ht, ⟨⟨pre, e, htrace, hquiet, -, -, hend⟩, -⟩, -⟩ := exec_output i s
  refine ⟨t, pre, e, ht, htrace, hquiet, ?_⟩
  cases hend with
  | responded v c last faulted => exact .inl ⟨faulted, v, c, last⟩
  | failed j a n _ _ last faulted => exact .inr ⟨a, n, faulted, last⟩

/-- Settles O13: a command leaves the fault as it is, or raises another. -/
theorem faultIsTerminal : Obligations.FaultIsTerminal := by
  refine ⟨fun s f => step_of_faulted, fun i s t hs h => ?_⟩
  obtain ⟨r, w, ⟨-, e, -, -, -, -, hend⟩, -⟩ := output_of_exec h
  cases hend with
  | responded _ _ _ faulted => rw [faulted]; exact hs
  | failed _ a n _ _ _ faulted => rw [faulted]; exact Option.some_ne_none _

/-! One step (R8, R31, R110). -/

/-- A step is idle, rejects a command that does not decode, or executes one that does. -/
theorem step_cases {s t : State} (h : step s = .next t) :
    s.faulted = none ∧ ((s.requests = [] ∧ t = s) ∨ ∃ r rest, s.requests = r :: rest ∧
      ((∃ why, t = (s.take r rest).rejectRequest r why) ∨ ∃ i, exec i (s.take r rest) = .next t)) := by
  unfold step at h
  cases hf : s.faulted with
  | some f => rw [hf] at h; cases h
  | none =>
    refine ⟨rfl, ?_⟩
    cases hr : s.requests with
    | nil => simp only [hf, hr] at h; cases h; exact .inl ⟨rfl, rfl⟩
    | cons r rest =>
      refine .inr ⟨r, rest, rfl, ?_⟩
      simp only [hf, hr] at h
      split at h
      · next i _ => exact .inr ⟨i, h⟩
      · next why _ => cases h; exact .inl ⟨why, rfl⟩

theorem step_of_decode_ok {s : State} {r : Request} {rest : List Request} {i : Instr} (hrun : s.faulted = none)
    (hreq : s.requests = r :: rest) (hdec : decode s.params.regionMap r.q r.d = .ok i) :
    step s = exec i (s.take r rest) := by
  simp only [step, hrun, hreq, hdec]

/-- Settles O9: the step's last case, and the fields that taking the command sets. -/
theorem stepRunsDecodedCommand : Obligations.StepRunsDecodedCommand :=
  fun _ _ _ _ hrun hreq hdec => ⟨step_of_decode_ok hrun hreq hdec, rfl, rfl, rfl⟩

/-- Settles O11: the step's case with no command. -/
theorem idleBlockStays : Obligations.IdleBlockStays := by
  intro s hrun hreq
  simp only [step, hrun, hreq]

/-- What the frame decodes to is what its command word and operand decode to. -/
theorem decode_of_decodeTableWord {nbits w : Nat} {i : Instr} (h : decodeTableWord nbits w = some i) :
    decode defaultRegionMap (BitVec.ofNat 37 (w % 2 ^ nbits)) (BitVec.ofNat 32 (w % 2 ^ nbits / 2 ^ 40)) = .ok i := by
  unfold decodeTableWord at h
  dsimp only at h
  split at h
  · split at h
    · next hi => cases h; exact hi
    · cases h
  · cases h

/-- Settles O10: the step takes the framed command again, with the inputs as they stood. -/
theorem framedCommandRuns : Obligations.FramedCommandRuns := by
  intro s nbits w i hrun hmap h
  have hdec := decode_of_decodeTableWord h
  rw [← hmap] at hdec
  exact step_of_decode_ok (s := s.withFetchWord nbits w) hrun rfl hdec

/-- Settles O14: a call that fails would be answered by one of the four answers listed. -/
theorem validRequestNeverFaults : Obligations.ValidRequestNeverFaults := by
  intro s r rest i hrun hreq hdec hlen hfatal
  obtain ⟨t, _, _, ht, ⟨⟨-, e, -, -, -, -, hend⟩, -⟩, -⟩ := exec_output i (s.take r rest)
  refine ⟨t, (step_of_decode_ok hrun hreq hdec).trans ht, ?_⟩
  cases hend with
  | responded _ _ _ faulted => exact faulted.trans hrun
  | failed j a n call answer =>
    have hj : j < s.busAnswers.length := by omega
    have hlisted : s.busAnswers[j] = .fatal := by
      simpa only [State.answerAt, State.take_busAnswers, List.getElem?_eq_getElem hj, Option.getD_some] using answer
    exact absurd (hlisted ▸ List.getElem_mem hj) hfatal

/-! The bus traffic (R82, R333). -/

/-- What a command adds to the trace, with its calls counted. -/
theorem Output.counts {r w : Nat} {s t : State} (h : Output r w s t) {es : List Event} (hes : t.trace = s.trace ++ es) :
    es.countP isBusRead = r ∧ es.countP isBusWrite = w := by
  obtain ⟨⟨pre, e, htrace, -, hreads, hwrites, -⟩, -⟩ := h
  rw [List.append_assoc, hes] at htrace
  rw [List.append_cancel_left htrace]
  exact ⟨hreads, hwrites⟩

/-- Settles O56: each family's calls, counted in what the command adds to the trace. -/
theorem boundedBusTraffic : Obligations.BoundedBusTraffic := by
  intro i s
  obtain ⟨t, r, w, ht, hout, hno⟩ := exec_output i s
  obtain ⟨pre, e, htrace, -⟩ := hout.trace
  have hes : t.trace = s.trace ++ (pre ++ [e]) := by rw [htrace, List.append_assoc]
  refine ⟨t, pre ++ [e], ht, hes, fun n k A hi => ?_, fun n A D hi => ?_, fun n k A hi => ?_, fun hrd hwr => ?_⟩
  · subst hi
    cases ht.symm.trans (exec_useRd ..)
    obtain ⟨r, hr, hread, -⟩ := s.useRead_output n k A
    obtain ⟨hreads, hwrites⟩ := hread.counts hes
    exact ⟨hreads ▸ hr, hwrites⟩
  · obtain rfl | hi := hi
    · cases ht.symm.trans (exec_useWr ..)
      exact (s.useWrite_output n A D).counts hes
    · cases ht.symm.trans (exec_of_mem_passWrs hi s)
      exact (s.passWrite_output n A D).counts hes
  · cases ht.symm.trans (exec_of_mem_passRds hi s)
    exact (s.passRead_output n A).counts hes
  · obtain ⟨hr, hw⟩ := hno ⟨hrd, hwr⟩
    obtain ⟨hreads, hwrites⟩ := hout.counts hes
    exact ⟨hreads.trans hr, hwrites.trans hw⟩

/-! The invariant (R33, with the model's own parts of log 3, 8 and 9). -/

theorem countP_busCalls (es : List Event) :
    es.countP (fun e => isBusRead e || isBusWrite e) = es.countP isBusRead + es.countP isBusWrite := by
  induction es with
  | nil => rfl
  | cons e es ih =>
    simp only [List.countP_cons, ih]
    cases e <;> simp [isBusRead, isBusWrite] <;> omega

theorem clearValid_clean {t : Word} (h : TagWordClean t) : TagWordClean (clearValid t) := by
  simp only [TagWordClean, clearValid] at h ⊢
  rw [BitVec.and_assoc, BitVec.and_comm (~~~_), ← BitVec.and_assoc, h, BitVec.ofNat_eq_ofNat, BitVec.zero_and]

/-- An address-array write stores no bit that R33 fixes. -/
theorem writtenTag_clean (src : AaWriteSource) (a d : Word) : TagWordClean (writtenTag src a d) := by
  have clean : ∀ x : Word, ((x &&& 0x1FFFFC00#32) ||| (d &&& 0x00000002#32)) &&& 0xE00003FD#32 = 0 := by
    intro x
    apply BitVec.eq_of_getLsbD_eq; intro i hi
    simp only [BitVec.getLsbD_and, BitVec.getLsbD_or]
    interval_cases i <;> simp
  cases src
  · exact clean d
  · exact clean a

theorem TagsDone.clean {i : Instr} {s t : State} (h : TagsDone i s t) (hs : ∀ set w, TagWordClean (s.tagAt set w))
    (set : SetIdx) (w : Way) : TagWordClean (t.tagAt set w) := by
  cases h with
  | kept tag => rw [tag]; exact hs set w
  | filled n k A v _ _ _ tag =>
    rw [tag set w]
    split
    · exact formTag_clean _
    · exact hs set w
  | purged A D _ tag =>
    rw [tag]
    split
    · exact clearValid_clean (hs set w)
    · exact hs set w
  | written A D _ tag =>
    rw [tag]
    split
    · exact writtenTag_clean _ _ _
    · exact hs set w
  | cleared _ tag => rw [tag]; exact BitVec.zero_and

theorem LinesDone.wf {i : Instr} {s t : State} (h : LinesDone i s t) (hs : Memory.wf s.lines = true) :
    Memory.wf t.lines = true := by
  cases h with
  | kept lines => rw [lines]; exact hs
  | stored _ wf => exact wf hs
  | cleared _ lines => rw [lines]; rfl

/-- Every command keeps the invariant. -/
theorem Inv.exec {i : Instr} {s t : State} (hs : Inv s) (h : exec i s = .next t) : Inv t := by
  obtain ⟨htags, -, hlines, -⟩ := exec_arraysDone h
  obtain ⟨r, w, ⟨pre, e, htrace, -, hreads, hwrites, -⟩, hcalls⟩ := output_of_exec h
  refine ⟨hlines.wf hs.lines, htags.clean hs.tags, ?_⟩
  rw [htrace, List.append_assoc, List.countP_append, hs.calls, countP_busCalls, hreads, hwrites, hcalls]

/-- Settles O47: of a step that is not idle, taking the command and rejecting it touch no field of the invariant. -/
theorem invariantKeptByStep : Obligations.InvariantKeptByStep := by
  intro s t hs h
  have htake : ∀ r rest, Inv (s.take r rest) := fun _ _ => ⟨hs.lines, hs.tags, hs.calls⟩
  obtain ⟨-, ⟨-, rfl⟩ | ⟨r, rest, -, ⟨why, rfl⟩ | ⟨i, hi⟩⟩⟩ := step_cases h
  · exact hs
  · exact ⟨hs.lines, hs.tags, hs.calls⟩
  · exact (htake r rest).exec hi

/-- Settles O48: every tag word is 0, and no byte is listed and nothing put out. -/
theorem invariantAtReset : Obligations.InvariantAtReset := by
  refine ⟨rfl, fun set w => ?_, rfl⟩
  have hzero : State.reset.tagAt set w = 0 := by simp [State.tagAt, State.reset]
  rw [hzero]
  exact BitVec.zero_and

/-- Settles O44: RESET's writes, read field by field. -/
theorem resetStateIsResetOutcome : Obligations.ResetStateIsResetOutcome := by
  intro s hp
  refine ⟨_, exec_reset_eq s, rfl, rfl, rfl, rfl, ?_, ?_, ?_⟩ <;> simp [hp, State.reset]

end Sys2Proof.Machine
end

section
/-! The cached-access family, continued (spec/40_cached_access.md): refills and bus failures (R148, R293), reads after
writes and after refills (R143, R149), the purge and the array windows read after they are written (R77, R233, R241),
and the kind of a read (R141). -/

namespace Sys2Proof.Machine

/-- Settles O17: the alignment clears bits below the fields. -/
theorem alignmentKeepsRegionTagSet : Obligations.AlignmentKeepsRegionTagSet :=
  ⟨fun m n A => ⟨regionOf_align m n A, formTag_align n A, setOfAddr_align n A⟩, fun A => by simp [align]⟩

/-! A request that is one bus access, failed (R293). -/

section
variable {s : State} {n : Size} {A : Word} (h : s.nextAnswer (align n A) n = .fatal)
include h

theorem State.passRead_fatal :
    (s.passRead n A).faulted = some (.busFault (align n A) n) ∧ SameArrays s (s.passRead n A) ∧
      SameControl s (s.passRead n A) ∧ BusCallsMade 1 s (s.passRead n A) ∧
      (s.passRead n A).trace = s.trace ++ alignEvents n A ++ [.busRead (align n A) n .fatal] := by
  obtain ⟨htag, hlru, hline, -, hcontrol⟩ := s.passRead_only n A
  have he := State.busRead_fatal ((s.noteAlign_nextAnswer n A ..).trans h)
  refine ⟨?_, ⟨htag, hline, hlru⟩, hcontrol, ⟨?_, ?_⟩, ?_⟩ <;> simp [State.passRead, he]

theorem State.passWrite_fatal (D : Word) :
    (s.passWrite n A D).faulted = some (.busFault (align n A) n) ∧ SameArrays s (s.passWrite n A D) ∧
      SameControl s (s.passWrite n A D) ∧ BusCallsMade 1 s (s.passWrite n A D) ∧
      (s.passWrite n A D).trace = s.trace ++ alignEvents n A ++ [.busWrite (align n A) n (lowBits n D) .fatal] := by
  obtain ⟨htag, hlru, hline, -, hcontrol⟩ := s.passWrite_only n A D
  have he := State.busWrite_fatal (d := D) ((s.noteAlign_nextAnswer n A ..).trans h)
  refine ⟨?_, ⟨htag, hline, hlru⟩, hcontrol, ⟨?_, ?_⟩, ?_⟩ <;> simp [State.passWrite, he]

end

/-- Settles O33: each of these commands is the one pass-through access. -/
theorem busFailureFaultsSingleAccess : Obligations.BusFailureFaultsSingleAccess := by
  intro s n k A D hfatal
  refine ⟨fun i hi => ⟨s.passRead n A, ?_, State.passRead_fatal hfatal⟩,
    fun i hi => ⟨s.passWrite n A D, ?_, State.passWrite_fatal hfatal D⟩⟩
  · obtain hi | ⟨rfl, hc⟩ := hi
    · exact exec_of_mem_passRds hi s
    · rw [exec_useRd, State.useRead_bypasses hc]
  · obtain hi | ⟨rfl, hc⟩ := hi
    · exact exec_of_mem_passWrs hi s
    · rw [exec_useWr, State.useWrite_bypasses hc]

/-- Settles O27: with no victim the read is a pass-through access, and on a hit the failed read is the check's. -/
theorem cachedReadBusFailureFaults : Obligations.CachedReadBusFailureFaults := by
  intro s n k A hcfg hen hfatal
  have hc := State.cachedEnabled_eq_true hcfg hen
  rw [exec_useRd]
  refine ⟨fun hmiss hvictim => ?_, fun w hhit hcheck => ?_⟩
  · rw [State.useRead_noVictim hc hmiss hvictim]
    exact ⟨_, rfl, State.passRead_fatal hfatal⟩
  · have he := State.useRead_hit hc hhit k
    rw [State.readHit_fatal (by simpa using hcheck) ((s.noteAlign_nextAnswer n A ..).trans hfatal)] at he
    have hcontrol := (s.useRead_done n k A).2
    have hused := (s.noteAlign n A).touch_lruUsed (align n A) w
    rw [he] at hcontrol ⊢
    refine ⟨_, rfl, rfl, fun set => ?_, by simp, by simp, hcontrol, ⟨by simp, by simp⟩, by simp⟩
    simpa using hused set

/-- Settles O29: the line write and the use of its way come before the bus write that fails. -/
theorem cachedWriteBusFailureKeepsLine : Obligations.CachedWriteBusFailureKeepsLine := by
  intro s n A D hcfg hen hfatal hwf
  have hc := State.cachedEnabled_eq_true hcfg hen
  rw [exec_useWr]
  cases hl : s.lookup (align n A) with
  | none =>
    have hmiss := State.lookup_eq_none.mp hl
    rw [State.useWrite_miss hc hmiss]
    obtain ⟨hfaulted, harrays, hcontrol, hbus, htrace⟩ := State.passWrite_fatal hfatal D
    exact ⟨_, rfl, hfaulted, fun w hhit => absurd hhit.1 (hmiss w), fun _ => harrays.lru, fun _ => harrays, harrays.tag,
      hcontrol, hbus, htrace⟩
  | some w =>
    have hhit := State.lookup_eq_some.mp hl
    obtain ⟨u, hu, hwrite⟩ := State.useWrite_hit hc hhit hwf D
    have hfatal' : u.nextAnswer (align n A) n = .fatal := by
      simpa only [State.nextAnswer, hu.bus.busAnswers, hu.bus.busCalls] using hfatal
    obtain ⟨htag, -, hcontrol, -⟩ := s.useWrite_done n A D
    rw [hwrite, State.busWrite_fatal hfatal'] at htag hcontrol ⊢
    refine ⟨_, rfl, rfl, fun w' hhit' => ?_, hu.lruKept, fun hmiss => absurd hhit.1 (hmiss w), htag, hcontrol,
      ⟨by simp [hu.bus.busAnswers], by simp [hu.bus.busCalls]⟩, by simp [hu.trace]⟩
    cases (State.lookup_eq_some.mpr hhit').symm.trans hl
    exact ⟨hu.line, hu.lruUsed⟩

/-! The refill (R148, R332, R293). -/

/-- A read that refills, all of whose chunks the bus answers. -/
theorem State.useRead_refilled {s : State} {n : Size} {k : Kind} {A : Word} {w : Way} {v : Nat → Word}
    {c : Nat → Option Nat} (hrefills : RefillsWay s (align n A) k w)
    (hans : ∀ i < 4, s.answerAt i (chunkAddr (align n A) i) .long = .done (v i) (c i)) :
    ∃ t, Refilled (align n A) w 4 v c (s.noteAlign n A) t ∧ s.useRead n k A =
      t.respond (some (t.lineRead (setOfAddr (align n A)) w (offOf (align n A)) n))
        (refillCost ((c 0).getD 0 + (c 1).getD 0 + (c 2).getD 0 + (c 3).getD 0)) := by
  obtain ⟨t, ht, he⟩ := State.refillRead_done (s := s.noteAlign n A) (w := w) n fun i hi =>
    (s.answerAt_noteAlign n A i ..).trans (hans i hi)
  exact ⟨t, ht, (State.useRead_refills hrefills).trans he⟩

/-- Settles O25: `total << 1` is the doubled sum, and four costs of 16 double to 128. -/
theorem refillCostDoubledAndCapped : Obligations.RefillCostDoubledAndCapped := by
  intro s n k A w v c hrefills hans
  obtain ⟨t, -, he⟩ := State.useRead_refilled hrefills hans
  refine ⟨_, _, _, (exec_useRd ..).trans (congrArg Host.Outcome.next he), List.getLast?_concat, ?_, ?_, ?_,
    fun hcosts => ?_⟩
  · rw [refillCost, Nat.shiftLeft_eq, Nat.mul_comm, Nat.pow_one]
  · exact Nat.min_le_right _ _
  · simp only [refillCost, Nat.shiftLeft_eq]
    omega
  · have h0 := hcosts 0 (by decide)
    have h1 := hcosts 1 (by decide)
    have h2 := hcosts 2 (by decide)
    have h3 := hcosts 3 (by decide)
    simp only [refillCost, Nat.shiftLeft_eq]
    omega

/-- Settles O26: the failed read comes after the chunks before it, and raises the fault. -/
theorem refillStopsAtBusFailure : Obligations.RefillStopsAtBusFailure := by
  intro s n k A w j v c hwf hrefills hj hans hfatal
  obtain ⟨u, hu, hfailed⟩ := State.refillRead_fatal (s := s.noteAlign n A) (w := w) n hj
    (fun i hi => (s.answerAt_noteAlign n A i ..).trans (hans i hi)) ((s.answerAt_noteAlign n A j ..).trans hfatal)
  have he := (State.useRead_refills hrefills).trans hfailed
  obtain ⟨htag, hlru, hlines, -, -, hbus, htrace⟩ := hu.of_noteAlign
  obtain ⟨-, hchunks⟩ := hlines hwf
  have hcontrol := (s.useRead_done n k A).2
  rw [he] at hcontrol
  rw [exec_useRd, he]
  refine ⟨_, rfl, htag, hlru, ⟨hchunks.filled, hchunks.kept, hchunks.others⟩, hcontrol,
    ⟨by simp [hbus.busAnswers, List.tail_drop], by simp [hbus.busCalls]; omega⟩, rfl, by simp [htrace],
    fun t hstep => ?_⟩
  rw [step_of_faulted (State.raise_faulted _ _)] at hstep
  cases hstep

/-! A read inside a long that stands in a line big-endian (R77). -/

/-- The part of the long `v` at its byte `b`, most significant first. -/
theorem State.lineRead_inside_long {s : State} {set : SetIdx} {w : Way} {o : Offset} {v : Word}
    (hbytes : ∀ b < 4, s.lineByte set w (o + BitVec.ofNat 4 b) = v.extractLsb' (8 * (3 - b)) 8) {n : Size} {b : Nat}
    (hb : b + n.bytes ≤ 4) :
    s.lineRead set w (o + BitVec.ofNat 4 b) n = lowBits n (v >>> (8 * (4 - n.bytes - b))) := by
  rw [← State.lowBits_lineRead]
  refine lowBits_eq_of_bytes fun i hi => ?_
  rw [State.extract_lineRead _ _ _ _ _ _ hi, BitVec.add_assoc, ← BitVec.ofNat_add, hbytes (b + i) (by omega)]
  apply BitVec.eq_of_getLsbD_eq; intro j hj
  simp only [BitVec.getLsbD_extractLsb', hj, decide_true, Bool.true_and, BitVec.getLsbD_ushiftRight]
  congr 1
  omega

/-- An offset is its long's and the byte within the long. -/
theorem offOf_eq_long_add (a : Word) :
    offOf a = (offOf a &&& 0xC#4) + BitVec.ofNat 4 (a.extractLsb' 0 2).toNat := by
  have hlow : a.extractLsb' 0 2 = (offOf a).extractLsb' 0 2 := by
    rw [offOf, BitVec.extractLsb'_extractLsb'_of_le (by decide)]
  rw [hlow]
  generalize offOf a = o
  revert o; decide

/-- An aligned access does not leave its long. -/
theorem low_bits_add_bytes_le (n : Size) (a : Word) : ((align n a).extractLsb' 0 2).toNat + n.bytes ≤ 4 := by
  cases n <;> simp only [align, BitVec.extractLsb'_and, Size.bytes] <;> generalize a.extractLsb' 0 2 = x <;>
    revert x <;> decide

/-- The last chunk of a refill is the one with the requested offset. -/
theorem chunkOff_three (a : Word) : chunkOff a 3 = offOf a &&& 0xC#4 := by
  simp only [chunkOff]
  generalize offOf a = o
  revert o; decide

/-- Settles O24: the answer is read inside the chunk that was stored last. -/
theorem refillAnswersFromLastChunk : Obligations.RefillAnswersFromLastChunk := by
  intro s t n k A w v c hwf hrefills hans h
  obtain ⟨u, hu, -, -, hchunks, -, -, -, htrace⟩ := missRefillsVictimLine s n k A w v c hwf hrefills hans
  cases h.symm.trans hu
  refine ⟨min (((c 0).getD 0 + (c 1).getD 0 + (c 2).getD 0 + (c 3).getD 0) <<< 1) 128, ?_⟩
  rw [htrace, List.getLast?_concat]
  conv_lhs => rw [offOf_eq_long_add, ← chunkOff_three]
  rw [State.lineRead_inside_long (hchunks.filled 3 (by decide)) (low_bits_add_bytes_le n A)]

/-! A read after a write, and after a refill. -/

section
variable {s : State} {n : Size} {A : Word} {w : Way} (hc : s.cachedEnabled = true)
    (hcheck : s.params.coherencyCheck = false) (hhit : HitsWay s (align n A) w)
include hc hcheck hhit

/-- An unchecked read hit answers from the line and makes no bus call. -/
theorem State.useRead_hit_unchecked (k : Kind) : SameBus s (s.useRead n k A) ∧ (s.useRead n k A).trace =
    s.trace ++ alignEvents n A ++
      [.response (some (s.lineRead (setOfAddr (align n A)) w (offOf (align n A)) n)) s.params.hitCost] := by
  obtain ⟨hcfg, hen⟩ := (Bool.and_eq_true ..).mp hc
  have hans : s.params.coherencyCheck = true → s.nextAnswer (align n A) n = .done 0 none := fun h =>
    absurd (hcheck.symm.trans h) Bool.false_ne_true
  obtain ⟨t, ht, -, -, -, -, -, hout, -⟩ := cachedReadHitAnswersLine s n k A 0 w none hcfg hen hhit hans
  cases ht.symm.trans (exec_useRd ..)
  exact hout hcheck

end

/-- Tags that are as before hit as before. -/
theorem hitsWay_congr {s t : State} {a : Word} {w : Way} (htag : ∀ set w', t.tagAt set w' = s.tagAt set w')
    (h : HitsWay s a w) : HitsWay t a w := by
  simpa only [HitsWay, htag] using h

theorem SameControl.cachedEnabled {s t : State} (h : SameControl s t) : t.cachedEnabled = s.cachedEnabled := by
  rw [State.cachedEnabled, State.cachedEnabled, h.cfgCacheEnable, h.enabled]

/-- Settles O30: the write leaves the tags, so the read hits the way in which the value was stored. -/
theorem writeHitThenReadReturnsValue : Obligations.WriteHitThenReadReturnsValue := by
  intro s n k A D v w c hcfg hen hhit hcheck hans hwf
  obtain ⟨hwrite, -⟩ := cachedWriteGoesThrough s n A D v c hcfg hen hans hwf
  obtain ⟨t, ht, hstored, -, -, htag, hcontrol, -⟩ := hwrite w hhit
  have hc : t.cachedEnabled = true := hcontrol.cachedEnabled.trans (State.cachedEnabled_eq_true hcfg hen)
  obtain ⟨hbus, htrace⟩ := State.useRead_hit_unchecked hc (by rw [hcontrol.params, hcheck])
    (hitsWay_congr htag hhit) k
  refine ⟨t, _, ht, exec_useRd .., hbus, ?_⟩
  rw [htrace, lineRead_of_stored hstored, hcontrol.params]

/-- Settles O31: the installed tag is the formed tag of every address of the line. -/
theorem refillCompletesLine : Obligations.RefillCompletesLine := by
  intro s t n k A w v c hrefills hcheck hans h B hline
  cases h.symm.trans (exec_useRd ..)
  have hcontrol := (s.useRead_done n k A).2
  have htag : TagInstalled (align n A) w s (s.useRead n k A) := by
    obtain ⟨u, hu, he⟩ := State.useRead_refilled hrefills hans
    obtain ⟨htag, -⟩ := hu.of_noteAlign
    rw [he]
    exact htag
  have hhit : ∀ b, SameLine (align n A) b → HitsWay (s.useRead n k A) b w := fun b =>
    hitsWay_of_tagInstalled hrefills.miss htag
  have hB : SameLine (align n A) B := (sameLine_align n A).trans hline
  refine ⟨State.lookup_eq_some.mpr (hhit B hB), fun m k' => ⟨_, exec_useRd .., ?_⟩⟩
  have hc := hcontrol.cachedEnabled.trans (State.cachedEnabled_eq_true hrefills.cfg hrefills.enabled)
  exact (State.useRead_hit_unchecked hc (by rw [hcontrol.params, hcheck])
    (hhit _ (hB.trans (sameLine_align m B).symm)) k').1

/-! After a purge (R233). -/

theorem lookup_congr {s t : State} {a : Word}
    (h : ∀ w, t.tagAt (setOfAddr a) w = formTag a ↔ s.tagAt (setOfAddr a) w = formTag a) :
    t.lookup a = s.lookup a := by
  simp only [State.lookup_eq_ite, h]

/-- Settles O35: V is cleared in every way that holds the line's formed tag, and in no other way. -/
theorem purgedLineMisses : Obligations.PurgedLineMisses := by
  intro s t P D h
  obtain ⟨u, hu, htag, -⟩ := purgeClearsEveryMatch s P D
  cases h.symm.trans hu
  have hmiss : ∀ A, SameLine A P → t.lookup A = none := by
    intro A hline
    obtain ⟨hset, hform⟩ := sameLine_fields hline
    refine State.lookup_eq_none.mpr fun w => ?_
    rw [htag]
    split
    · exact clearValid_ne_formTag _ A
    · next hne => exact fun hA => hne ⟨hset.symm, hA.trans hform.symm⟩
  refine ⟨hmiss, fun A hline => lookup_congr fun w => ?_, fun n k A hline => ?_⟩
  · rw [htag]
    split
    · next hP =>
      have hA : s.tagAt (setOfAddr A) w ≠ formTag A := fun hA =>
        hline (sameLine_of_fields hP.1 (hA.symm.trans hP.2))
      exact ⟨fun hcleared => absurd hcleared (clearValid_ne_formTag _ A), fun hs => absurd hs hA⟩
    · rfl
  · obtain ⟨r, -, hout, hpos⟩ := t.useRead_output n k A
    obtain ⟨pre, e, htrace, -, hreads, -⟩ := hout.trace
    refine ⟨_, pre ++ [e], exec_useRd .., by rw [htrace, List.append_assoc], ?_⟩
    rw [hreads]
    exact hpos (hmiss _ ((sameLine_align n A).trans hline))

/-! The array windows (R77, R241, R242). -/

theorem TagWordClean.getLsbD {t : Word} (h : TagWordClean t) {i : Nat} (hi : (0xE00003FD#32).getLsbD i = true) :
    t.getLsbD i = false := by
  have hbit := congrArg (fun x : Word => x.getLsbD i) h
  simpa only [BitVec.getLsbD_and, hi, Bool.and_true, BitVec.ofNat_eq_ofNat, BitVec.getLsbD_zero] using hbit

/-- The bits of the composite that the LRU state does not reach are the tag word's. -/
theorem composite_getLsbD (t : Word) (l : LruBits) {i : Nat} (hi : i < 4 ∨ 10 ≤ i) :
    (composite t l).getLsbD i = t.getLsbD i := by
  have hout : (l.setWidth 32 <<< 4).getLsbD i = false := by
    rw [BitVec.getLsbD_shiftLeft, BitVec.getLsbD_setWidth]
    obtain hlow | hhigh := hi
    · simp [hlow]
    · simp [BitVec.getLsbD_of_ge l (i - 4) (by omega)]
  rw [composite, BitVec.getLsbD_or, hout, Bool.or_false]

theorem composite_lru {t : Word} (ht : TagWordClean t) (l : LruBits) : (composite t l).extractLsb' 4 6 = l := by
  apply BitVec.eq_of_getLsbD_eq; intro i hi
  have hclean : t.getLsbD (4 + i) = false := ht.getLsbD (by interval_cases i <;> rfl)
  simp only [composite, BitVec.getLsbD_extractLsb', BitVec.getLsbD_or, hclean, BitVec.getLsbD_shiftLeft,
    BitVec.getLsbD_setWidth]
  interval_cases i <;> simp

/-- Settles O37: each field of the composite is the tag word's or the LRU state's, the other's bits being 0 there. -/
theorem addressArrayReadLayout : Obligations.AddressArrayReadLayout := by
  intro s k A hclean
  obtain ⟨t, ht, -, htrace⟩ := addressArrayRead s k A
  refine ⟨t, composite (s.tagAt (setOfAddr A) s.aaWay) (s.lruAt (setOfAddr A)), ht, ?_, ?_, composite_lru hclean _,
    composite_getLsbD _ _ (by decide), ?_⟩
  · rw [htrace, List.getLast?_concat, composite]
  · apply BitVec.eq_of_getLsbD_eq; intro i hi
    simp only [BitVec.getLsbD_extractLsb', hi, decide_true, Bool.true_and,
      composite_getLsbD _ _ (Or.inr (Nat.le_add_right 10 i))]
  · apply BitVec.eq_of_getLsbD_eq; intro i hi
    rw [BitVec.getLsbD_and, BitVec.ofNat_eq_ofNat, BitVec.getLsbD_zero]
    cases hm : (0xE000000D#32).getLsbD i with
    | false => exact Bool.and_false _
    | true =>
      have hfixed : (0xE00003FD#32).getLsbD i = true ∧ (i < 4 ∨ 10 ≤ i) := by
        revert hm; interval_cases i <;> decide
      rw [composite_getLsbD _ _ hfixed.2, hclean.getLsbD hfixed.1, Bool.false_and]

/-- A written composite, less the bits that the tag word and the LRU state do not take. -/
theorem composite_written (a d : Word) : composite (writtenTag .data a d) (writtenLru d) = d &&& 0x1FFFFFF2#32 := by
  apply BitVec.eq_of_getLsbD_eq; intro i hi
  simp only [composite, writtenTag, writtenLru, BitVec.getLsbD_or, BitVec.getLsbD_and, BitVec.getLsbD_shiftLeft,
    BitVec.getLsbD_setWidth, BitVec.getLsbD_extractLsb']
  interval_cases i <;> simp

/-- Settles O39: the read composes what the write has stored. -/
theorem addressArrayReadsBackWrite : Obligations.AddressArrayReadsBackWrite := by
  intro s t u k A B D hsrc hset hwr hrd
  obtain ⟨t', ht, htag, hlru, -, hcontrol, -⟩ := addressArrayWrite s A D
  cases hwr.symm.trans ht
  obtain ⟨u', hu, -, htrace⟩ := addressArrayRead t k B
  cases hrd.symm.trans hu
  rw [htrace, List.getLast?_concat, hset, hcontrol.aaWay, hcontrol.params, htag, hlru, if_pos ⟨rfl, rfl⟩, if_pos hsrc,
    if_pos rfl]
  exact congrArg (fun v => some (Event.response (some v) s.params.arrayCost)) (composite_written A D)

theorem align_long_align (n : Size) (a : Word) : align .long (align n a) = align .long a := by
  cases n <;> simp [align, BitVec.and_assoc]

theorem dataArrayWay_align (n : Size) (a : Word) : dataArrayWay (align n a) = dataArrayWay a := by
  cases n
  · rfl
  all_goals
    simp only [dataArrayWay, align, BitVec.extractLsb'_and]
    exact BitVec.and_allOnes

theorem offOf_align_long (a : Word) : offOf (align .long a) = offOf a &&& 0xC#4 := by
  simp only [offOf, align, BitVec.extractLsb'_and]
  rfl

/-- The four bytes of a stored long, most significant lowest. -/
theorem Stored.long_bytes {set : SetIdx} {w : Way} {o : Offset} {v : Word} {s t : State}
    (h : Stored set w o .long v s t) {b : Nat} (hb : b < 4) :
    t.lineByte set w (o + BitVec.ofNat 4 b) = v.extractLsb' (8 * (3 - b)) 8 := by
  have hsub : (o + BitVec.ofNat 4 b - o).toNat = b := by
    rw [BitVec.add_comm, BitVec.add_sub_cancel, BitVec.toNat_ofNat, Nat.mod_eq_of_lt (by omega)]
  rw [h, hsub, if_pos ⟨rfl, rfl, hb⟩]
  rfl

/-- Settles O42: the read is inside the long that was written. -/
theorem mixedWidthBigEndian : Obligations.MixedWidthBigEndian := by
  intro s t u n k A B D hwf hwr hrd hsame
  obtain ⟨t', ht, hstored, -, -, hcontrol, -⟩ := dataArrayWrites s .long A D hwf
  cases hwr.symm.trans ht
  cases hrd.symm.trans (exec_daRd ..)
  have hlong : align .long (align n B) = align .long A := (align_long_align n B).trans hsame
  have hset : setOfAddr (align n B) = setOfAddr (align .long A) := by rw [← hlong, setOfAddr_align .long]
  have hway : dataArrayWay (align n B) = dataArrayWay (align .long A) := by rw [← hlong, dataArrayWay_align .long]
  have hoff : offOf (align n B) &&& 0xC#4 = offOf (align .long A) := by rw [← hlong, offOf_align_long]
  have hbytes : ∀ b < 4, t.lineByte (setOfAddr (align .long A)) (dataArrayWay (align .long A))
      (offOf (align .long A) + BitVec.ofNat 4 b) = D.extractLsb' (8 * (3 - b)) 8 := fun b hb => hstored.long_bytes hb
  rw [State.dataArrayRead_eq, State.noteAlign_respond_trace, List.getLast?_concat, hcontrol.params, hset, hway,
    offOf_eq_long_add (align n B), hoff, State.lineRead_inside_long hbytes (low_bits_add_bytes_le n B)]

/-! The kind of a read (R141, R146). -/

/-- A Use-region read looks at its kind only to select a victim. -/
theorem State.useRead_kind_congr {s : State} {n : Size} {k k' : Kind} {A : Word}
    (h : s.selectVictim (setOfAddr (align n A)) k = s.selectVictim (setOfAddr (align n A)) k') :
    s.useRead n k A = s.useRead n k' A := by
  simp only [State.useRead, State.cachedRead, State.noteAlign_selectVictim, h]

/-- Settles O58: an uncached read and a hit select no victim, and the victim does not turn on the kind where there is
none or the two biases are equal. -/
theorem kindMattersOnlyToVictimBias : Obligations.KindMattersOnlyToVictimBias := by
  intro s n k k' A
  refine ⟨fun rd hrd => ?_, rfl, fun h => ?_⟩
  · simp only [List.mem_cons, List.not_mem_nil, or_false] at hrd
    rcases hrd with rfl | rfl | rfl | rfl
    · rw [exec_thrRd, exec_thrRd]
    · rw [exec_ioRd, exec_ioRd]
    · rw [exec_unmRd, exec_unmRd]
    · rw [exec_daRd, exec_daRd]
  · rw [exec_useRd, exec_useRd]
    refine congrArg Host.Outcome.next ?_
    cases hc : s.cachedEnabled with
    | false => rw [State.useRead_bypasses hc, State.useRead_bypasses hc]
    | true =>
      obtain hfalse | hhit | hvictim | hbias := h
      · exact absurd (hc.symm.trans hfalse) (by decide)
      · obtain ⟨w, hw⟩ := Option.ne_none_iff_exists'.mp hhit
        rw [State.useRead_hit hc (State.lookup_eq_some.mp hw), State.useRead_hit hc (State.lookup_eq_some.mp hw)]
      · exact State.useRead_kind_congr (by rw [State.selectVictim_eq, State.selectVictim_eq, hvictim]; rfl)
      · have hsame : s.replBias k = s.replBias k' := by cases k <;> cases k' <;> simp [State.replBias, hbias]
        exact State.useRead_kind_congr (by rw [State.selectVictim, State.selectVictim, hsame])

end Sys2Proof.Machine
end

section
/-! What two runs that differ in one setting share (R190, R280; spec/92_eei_decisions.md D30): an operation that does
not look at the setting does the same with it changed. -/

namespace Sys2Proof.Machine

/-- `f` changes settings that no array update, output or bus call reads or writes. -/
structure Passive (f : State → State) : Prop where
  emit : ∀ s e, (f s).emit e = f (s.emit e)
  raise : ∀ s x, (f s).raise x = f (s.raise x)
  countCall : ∀ s, (f s).countCall = f s.countCall
  setLineByte : ∀ s set w o b, (f s).setLineByte set w o b = f (s.setLineByte set w o b)
  setTag : ∀ s set w t, (f s).setTag set w t = f (s.setTag set w t)
  touch : ∀ s set w, (f s).touch set w = f (s.touch set w)
  setLru : ∀ s set l, (f s).setLru set l = f (s.setLru set l)
  tagAt : ∀ s set w, (f s).tagAt set w = s.tagAt set w
  lruAt : ∀ s set, (f s).lruAt set = s.lruAt set
  lineByte : ∀ s set w o, (f s).lineByte set w o = s.lineByte set w o
  nextAnswer : ∀ s a n, (f s).nextAnswer a n = s.nextAnswer a n
  selectVictim : ∀ s set k, (f s).selectVictim set k = s.selectVictim set k
  aaWay : ∀ s, (f s).aaWay = s.aaWay
  arrayCost : ∀ s, (f s).params.arrayCost = s.params.arrayCost
  aaWriteSource : ∀ s, (f s).params.aaWriteSource = s.params.aaWriteSource
  writeHitUpdatesLru : ∀ s, (f s).params.writeHitUpdatesLru = s.params.writeHitUpdatesLru

/-- The two enable flags (R32, R40). -/
theorem withFlags_passive (e c : Bool) : Passive fun s => s.withFlags e c := by
  constructor <;> intros <;> rfl

/-- `COHERENCY_CHECK` (R280). -/
theorem withCheck_passive (b : Bool) : Passive fun s => s.withCheck b := by
  constructor <;> intros <;> rfl

namespace Passive

section
variable {f : State → State} (hf : Passive f)
include hf

theorem respond (s : State) (v : Option Word) (c : Nat) : (f s).respond v c = f (s.respond v c) := hf.emit ..

theorem noteAlign (s : State) (n : Size) (a : Word) : (f s).noteAlign n a = f (s.noteAlign n a) := by
  unfold State.noteAlign
  split
  · rfl
  · exact hf.emit ..

theorem lineRead (s : State) (set : SetIdx) (w : Way) (o : Offset) (n : Size) :
    (f s).lineRead set w o n = s.lineRead set w o n :=
  State.lineRead_congr fun _ _ => hf.lineByte ..

theorem lineWrite (s : State) (set : SetIdx) (w : Way) (o : Offset) (n : Size) (v : Word) :
    (f s).lineWrite set w o n v = f (s.lineWrite set w o n v) := by
  cases n <;> simp only [State.lineWrite, hf.setLineByte]

theorem lookup (s : State) (a : Word) : (f s).lookup a = s.lookup a := lookup_congr fun _ => by rw [hf.tagAt]

theorem memRead (s : State) (a : Word) (n : Size) :
    (f s).memRead a n = ((s.memRead a n).1, f (s.memRead a n).2) := by
  rw [State.memRead_eq, State.memRead_eq, hf.nextAnswer]
  cases s.nextAnswer a n with
  | done v c => simp only [hf.countCall, hf.emit]
  | fatal => simp only [hf.countCall, hf.emit, hf.raise]

theorem busRead (s : State) (a : Word) (n : Size) : (f s).busRead a n = f (s.busRead a n) := by
  obtain ⟨v, c, h, e⟩ | ⟨h, e⟩ := s.busRead_cases a n
  · rw [State.busRead_done ((hf.nextAnswer ..).trans h), e, hf.countCall, hf.emit, hf.respond]
  · rw [State.busRead_fatal ((hf.nextAnswer ..).trans h), e, hf.countCall, hf.emit, hf.raise]

theorem busWrite (s : State) (a : Word) (n : Size) (d : Word) : (f s).busWrite a n d = f (s.busWrite a n d) := by
  obtain ⟨v, c, h, e⟩ | ⟨h, e⟩ := s.busWrite_cases a n d
  · rw [State.busWrite_done ((hf.nextAnswer ..).trans h), e, hf.countCall, hf.emit, hf.respond]
  · rw [State.busWrite_fatal ((hf.nextAnswer ..).trans h), e, hf.countCall, hf.emit, hf.raise]

theorem passRead (s : State) (n : Size) (a : Word) : (f s).passRead n a = f (s.passRead n a) := by
  rw [State.passRead, hf.noteAlign, hf.busRead, State.passRead]

theorem passWrite (s : State) (n : Size) (a d : Word) : (f s).passWrite n a d = f (s.passWrite n a d) := by
  rw [State.passWrite, hf.noteAlign, hf.busWrite, State.passWrite]

theorem purgeWay (s : State) (set : SetIdx) (t : Word) (w : Way) :
    (f s).purgeWay set t w = f (s.purgeWay set t w) := by
  simp only [State.purgeWay, hf.tagAt]
  split
  · exact hf.setTag ..
  · rfl

theorem purge (s : State) (a : Word) : (f s).purge a = f (s.purge a) := by
  simp only [State.purge, List.foldl_cons, List.foldl_nil, hf.purgeWay, hf.respond, hf.arrayCost]

theorem prgWrL (s : State) (A : Word) : ((f s).noteAlign .long A).purge (align .long A) =
    f ((s.noteAlign .long A).purge (align .long A)) := by
  rw [hf.noteAlign, hf.purge]

theorem addressArrayRead (s : State) (a : Word) : (f s).addressArrayRead a = f (s.addressArrayRead a) := by
  simp only [State.addressArrayRead_eq, hf.noteAlign, hf.tagAt, hf.lruAt, hf.aaWay, hf.arrayCost, hf.respond]

theorem addressArrayWrite (s : State) (a d : Word) : (f s).addressArrayWrite a d = f (s.addressArrayWrite a d) := by
  simp only [State.addressArrayWrite_eq, hf.noteAlign, hf.aaWay, hf.aaWriteSource, hf.setTag, hf.setLru, hf.arrayCost,
    hf.respond]

theorem dataArrayRead (s : State) (n : Size) (a : Word) : (f s).dataArrayRead n a = f (s.dataArrayRead n a) := by
  simp only [State.dataArrayRead_eq, hf.noteAlign, hf.lineRead, hf.arrayCost, hf.respond]

theorem dataArrayWrite (s : State) (n : Size) (a d : Word) :
    (f s).dataArrayWrite n a d = f (s.dataArrayWrite n a d) := by
  simp only [State.dataArrayWrite_eq, hf.noteAlign, hf.lineWrite, hf.arrayCost, hf.respond]

/-- The line-fill sequencer. -/
theorem fillChunks (base : Word) (set : SetIdx) (w : Way) (offs : List Offset) (total : Nat) (s : State) :
    fillChunks base set w offs total (f s) =
      ((fillChunks base set w offs total s).1, f (fillChunks base set w offs total s).2) := by
  induction offs generalizing total s with
  | nil => rfl
  | cons off rest ih =>
    simp only [Machine.fillChunks, hf.memRead]
    obtain ⟨_ | ⟨v, c⟩, s'⟩ := s.memRead (base + off.setWidth 32) .long
    · rfl
    · simp only [hf.lineWrite, ih]

theorem refillRead (s : State) (a : Word) (n : Size) (w : Way) : (f s).refillRead a n w = f (s.refillRead a n w) := by
  simp only [State.refillRead, hf.touch, hf.setTag, hf.fillChunks]
  obtain ⟨_ | total, u⟩ := Machine.fillChunks (lineBase a) (setOfAddr a) w (chunkOffsets (offOf a)) 0
    ((s.touch (setOfAddr a) w).setTag (setOfAddr a) w (formTag a))
  · rfl
  · simp only [hf.lineRead, hf.respond]

/-- A cached read that misses. -/
theorem cachedRead_miss {s : State} {a : Word} (h : s.lookup a = none) (n : Size) (k : Kind) :
    (f s).cachedRead a n k = f (s.cachedRead a n k) := by
  simp only [State.cachedRead, hf.lookup, h, hf.selectVictim]
  cases s.selectVictim (setOfAddr a) k with
  | none => exact hf.busRead ..
  | some w => exact hf.refillRead ..

theorem writeHit (s : State) (a : Word) (n : Size) (w : Way) (d : Word) :
    (f s).writeHit a n w d = f (s.writeHit a n w d) := by
  simp only [State.writeHit, hf.writeHitUpdatesLru, hf.lineWrite]
  split
  · exact hf.touch ..
  · rfl

theorem cachedWrite (s : State) (a : Word) (n : Size) (d : Word) :
    (f s).cachedWrite a n d = f (s.cachedWrite a n d) := by
  simp only [State.cachedWrite, hf.lookup]
  cases s.lookup a with
  | none => exact hf.busWrite ..
  | some w => simp only [hf.writeHit, hf.busWrite]

end

end Passive

theorem exec_prgWrL (a d : Word) (s : State) :
    exec (.prgWrL a d) s = .next ((s.noteAlign .long a).purge (align .long a)) := rfl

theorem exec_aaRdL (k : Kind) (a : Word) (s : State) : exec (.aaRdL k a) s = .next (s.addressArrayRead a) := rfl

theorem exec_aaWrL (a d : Word) (s : State) : exec (.aaWrL a d) s = .next (s.addressArrayWrite a d) := rfl

/-- A command outside the Use region and the control commands does the same with a passive setting changed. -/
theorem exec_passive {f : State → State} (hf : Passive f) {i : Instr} (hrd : ∀ n k A, i ≠ useRd n k A)
    (hwr : ∀ n A D, i ≠ useWr n A D) (htarget : i.target ≠ none) {s t : State} (h : exec i s = .next t) :
    exec i (f s) = .next (f t) := by
  cases shape i with
  | useRd n k a => exact absurd rfl (hrd n k a)
  | useWr n a d => exact absurd rfl (hwr n a d)
  | thrRd n k a => cases h.symm.trans (exec_thrRd ..); rw [exec_thrRd, hf.passRead]
  | thrWr n a d => cases h.symm.trans (exec_thrWr ..); rw [exec_thrWr, hf.passWrite]
  | ioRd n k a => cases h.symm.trans (exec_ioRd ..); rw [exec_ioRd, hf.passRead]
  | ioWr n a d => cases h.symm.trans (exec_ioWr ..); rw [exec_ioWr, hf.passWrite]
  | unmRd n k a => cases h.symm.trans (exec_unmRd ..); rw [exec_unmRd, hf.passRead]
  | unmWr n a d => cases h.symm.trans (exec_unmWr ..); rw [exec_unmWr, hf.passWrite]
  | prgWrL a d => rw [exec_prgWrL, hf.prgWrL, Host.Outcome.next.inj ((exec_prgWrL a d s).symm.trans h)]
  | aaRdL k a => cases h.symm.trans (exec_aaRdL ..); rw [exec_aaRdL, hf.addressArrayRead]
  | aaWrL a d => cases h.symm.trans (exec_aaWrL ..); rw [exec_aaWrL, hf.addressArrayWrite]
  | daRd n k a => cases h.symm.trans (exec_daRd ..); rw [exec_daRd, hf.dataArrayRead]
  | daWr n a d => cases h.symm.trans (exec_daWr ..); rw [exec_daWr, hf.dataArrayWrite]
  | reset | enable | disable | setrepl d => exact absurd rfl htarget

/-- Settles O57: the flags are passive settings. -/
theorem enableFlagsMatterOnlyToUse : Obligations.EnableFlagsMatterOnlyToUse :=
  fun _ _ _ e c hrd hwr htarget h => exec_passive (withFlags_passive e c) hrd hwr htarget h

/-! The coherency check (R280). -/

/-- A Use-region read that is no cached hit. -/
theorem State.useRead_withCheck {s : State} {n : Size} {A : Word}
    (h : s.cachedEnabled = false ∨ s.lookup (align n A) = none) (k : Kind) (b : Bool) :
    (s.withCheck b).useRead n k A = (s.useRead n k A).withCheck b := by
  have hf := withCheck_passive b
  cases hc : s.cachedEnabled with
  | false =>
    have hc' : (s.withCheck b).cachedEnabled = false := hc
    rw [State.useRead_bypasses hc', State.useRead_bypasses hc]
    exact hf.passRead s n A
  | true =>
    have hc' : (s.withCheck b).cachedEnabled = true := hc
    have hmiss : (s.noteAlign n A).lookup (align n A) = none := by
      rw [State.noteAlign_lookup]
      exact h.resolve_left (by rw [hc]; decide)
    rw [State.useRead_cached hc', State.useRead_cached hc, hf.noteAlign s n A]
    exact hf.cachedRead_miss hmiss n k

theorem State.useWrite_withCheck (s : State) (n : Size) (A D : Word) (b : Bool) :
    (s.withCheck b).useWrite n A D = (s.useWrite n A D).withCheck b := by
  have hf := withCheck_passive b
  cases hc : s.cachedEnabled with
  | false =>
    have hc' : (s.withCheck b).cachedEnabled = false := hc
    rw [State.useWrite_bypasses hc', State.useWrite_bypasses hc]
    exact hf.passWrite s n A D
  | true =>
    have hc' : (s.withCheck b).cachedEnabled = true := hc
    rw [State.useWrite_cached hc', State.useWrite_cached hc, hf.noteAlign s n A]
    exact hf.cachedWrite (s.noteAlign n A) (align n A) n D

/-- Settles O21: a checked and an unchecked hit use the same way and answer the same value, and in every other command
the check is a passive setting. -/
theorem coherencyCheckOnlyObserves : Obligations.CoherencyCheckOnlyObserves := by
  refine ⟨fun s t u n k A b c hc hlookup hans ht hu => ?_, fun i s t b hno h => ?_⟩
  · obtain ⟨w, hw⟩ := Option.ne_none_iff_exists'.mp hlookup
    obtain ⟨hcfg, hen⟩ := (Bool.and_eq_true ..).mp hc
    have hhit : HitsWay s (align n A) w := State.lookup_eq_some.mp hw
    obtain ⟨t', ht', hlru, htag, hline, -, hfaulted, -, htrace⟩ :=
      cachedReadHitAnswersLine (s.withCheck true) n k A b w c hcfg hen hhit fun _ => hans
    cases ht.symm.trans ht'
    obtain ⟨u', hu', hlru', htag', hline', -, hfaulted', htrace', -⟩ :=
      cachedReadHitAnswersLine (s.withCheck false) n k A b w c hcfg hen hhit fun _ => hans
    cases hu.symm.trans hu'
    obtain ⟨-, htrace⟩ := htrace rfl
    obtain ⟨-, htrace'⟩ := htrace' rfl
    refine ⟨⟨fun set w' => (htag set w').trans (htag' set w').symm,
      fun set w' o => (hline set w' o).trans (hline' set w' o).symm,
      fun set => (hlru set).trans (hlru' set).symm⟩, hfaulted.trans hfaulted'.symm, ?_⟩
    rw [htrace, htrace', List.getLast?_concat, List.getLast?_concat, (withCheck_passive true).lineRead s,
      (withCheck_passive false).lineRead s]
    rfl
  · by_cases hcontrol : i.target = none
    · cases i <;> cases hcontrol <;> cases h <;> rfl
    by_cases hrd : ∃ n k A, i = useRd n k A
    · obtain ⟨n, k, A, rfl⟩ := hrd
      cases h.symm.trans (exec_useRd ..)
      rw [exec_useRd, State.useRead_withCheck (hno n k A rfl)]
    by_cases hwr : ∃ n A D, i = useWr n A D
    · obtain ⟨n, A, D, rfl⟩ := hwr
      cases h.symm.trans (exec_useWr ..)
      rw [exec_useWr, State.useWrite_withCheck]
    exact exec_passive (withCheck_passive b) (fun n k A hi => hrd ⟨n, k, A, hi⟩) (fun n A D hi => hwr ⟨n, A, D, hi⟩)
      hcontrol h

end Sys2Proof.Machine
end
